-- ==== Sys2Proof/Word.lean ====
section
/-! DEFINITION. The bit-vector types of the block (00_scope R7, R9; 30_encoding R42, R51). -/

namespace Sys2Proof

/-- A byte, 0..255 (00_scope R9). -/
abbrev Byte := BitVec 8

/-- The command word CMD, 32 bits (30_encoding R42, R43). -/
abbrev CmdWord := BitVec 32

/-- The ENCODE numerator NUM, 64-bit two's complement (00_scope R5, 30_encoding R51). -/
abbrev Numerator := BitVec 64

/-- The ENCODE denominator DEN, 32-bit unsigned (00_scope R5, 30_encoding R51). -/
abbrev Denominator := BitVec 32

end Sys2Proof
end

