-- ==== Sys2Proof/Syntax.lean ====
section
/-! DEFINITION. The commands of FPCODEC-1: one constructor of `Instr` for each row of spec/opcode_table.json,
with the command's data operand where it takes one (00_scope R11: a command is a pair of a word and a data operand). -/

namespace Sys2Proof

/-- A FixedPointFormat (40_codec R59). `ibm1` is integer_bytes − 1 and `fd` is fraction_digits, so the 32 terms
of this type are the 32 legal values of FMT (30_encoding R45). -/
structure Fmt where
  signed : Bool
  ibm1   : Fin 4
  fd     : Fin 4
  deriving DecidableEq, Repr

/-- The enum tables READ_ENUM can name (42_unpack R92). -/
inductive TableId where
  | accuracy
  | stability
  | validity
  deriving DecidableEq, Repr

/-- The sensor kind carried by UNPACK.PARTICLE (42_unpack R94). -/
inductive SensorKind where
  | none
  | ppd42
  | sds011
  deriving DecidableEq, Repr

/-- The data operand DATA (30_encoding R49 to R51). A command that takes no data has `bytes []`. -/
inductive Data where
  | bytes (bs : List Byte)
  | ratio (num : Numerator) (den : Denominator)
  deriving DecidableEq, Repr

/-- What the host offers in one transaction: the pair (CMD, DATA) (30_encoding R42). -/
structure Command where
  word : CmdWord
  data : Data
  deriving DecidableEq, Repr

/-- The twelve commands (30_encoding R55). -/
inductive Instr where
  | load (len : BitVec 8) (bytes : List Byte)
  | decode (fmt : Fmt) (bytes : List Byte)
  | encode (fmt : Fmt) (num : Numerator) (den : Denominator)
  | readSingle (fmt : Fmt)
  | readEnum (table : TableId)
  | readStriped (fmt : Fmt) (count : BitVec 8)
  | unpackAir
  | unpackAirQuality
  | unpackLight
  | unpackSound
  | unpackParticle (kind : SensorKind)
  | query
  deriving DecidableEq, Repr

end Sys2Proof
end

