-- ==== Sys2Proof/Machine/Format.lean ====
section
/-! DEFINITION. Formats: integer bytes, encoded width, and the formats the layouts use
(40_codec R59, 42_unpack R88). -/

namespace Sys2Proof

/-- integer_bytes of a format, 1..4 (30_encoding R45). -/
def Fmt.ib (f : Fmt) : Nat := f.ibm1.val + 1

/-- 1 when the format has a fraction byte, else 0 (40_codec R59). -/
def Fmt.fractionBytes (f : Fmt) : Nat := if f.fd.val > 0 then 1 else 0

/-- The encoded width in bytes, 1..5 (40_codec R59). -/
def Fmt.width (f : Fmt) : Nat := f.ib + f.fractionBytes

/-- The scale 10^fd of a format's fraction byte (40_codec R62). -/
def Fmt.scale (f : Fmt) : Nat := 10 ^ f.fd.val

/-- s1.1. -/
def Fmt.s1_1 : Fmt := ⟨true, 0, 1⟩
/-- u1.1. -/
def Fmt.u1_1 : Fmt := ⟨false, 0, 1⟩
/-- u1.2. -/
def Fmt.u1_2 : Fmt := ⟨false, 0, 2⟩
/-- u2.0. -/
def Fmt.u2_0 : Fmt := ⟨false, 1, 0⟩
/-- u2.1. -/
def Fmt.u2_1 : Fmt := ⟨false, 1, 1⟩
/-- u2.2. -/
def Fmt.u2_2 : Fmt := ⟨false, 1, 2⟩
/-- u4.0. -/
def Fmt.u4_0 : Fmt := ⟨false, 3, 0⟩

/-- The measurement categories (00_scope R12). -/
inductive Category where
  | air
  | airQuality
  | light
  | sound
  | particle
  deriving DecidableEq, Repr

/-- Each category's fixed frame size in bytes (42_unpack R88, R102). -/
def Category.size : Category → Nat
  | .air => 12
  | .airQuality => 10
  | .light => 5
  | .sound => 18
  | .particle => 6

/-- The width of a frame command, in bytes read and advanced; `none` for the commands that are not frame
commands (41_frame R73, R75; 20_memory R35). -/
def Instr.frameWidth : Instr → Option Nat
  | .load _ _ => none
  | .decode _ _ => none
  | .encode _ _ _ => none
  | .readSingle fmt => some fmt.width
  | .readEnum _ => some 1
  | .readStriped fmt count => some (count.toNat * fmt.width)
  | .unpackAir => some Category.air.size
  | .unpackAirQuality => some Category.airQuality.size
  | .unpackLight => some Category.light.size
  | .unpackSound => some Category.sound.size
  | .unpackParticle _ => some Category.particle.size
  | .query => none

end Sys2Proof
end

