-- ==== Sys2Proof/WellFormed.lean ====
section
/-! DEFINITION. Which terms of `Instr` are commands: the data operand has the shape its opcode requires
(30_encoding R49 to R51, R56). -/

namespace Sys2Proof

/-- LOAD takes exactly len bytes, DECODE exactly width(fmt) bytes, and ENCODE a denominator other than 0; the
other operands are legal by their types. -/
def Instr.wf : Instr → Bool
  | .load len bytes => bytes.length == len.toNat
  | .decode fmt bytes => bytes.length == fmt.width
  | .encode _ _ den => den != 0
  | .readSingle _ => true
  | .readEnum _ => true
  | .readStriped _ _ => true
  | .unpackAir => true
  | .unpackAirQuality => true
  | .unpackLight => true
  | .unpackSound => true
  | .unpackParticle _ => true
  | .query => true

end Sys2Proof
end

