-- ==== Sys2Proof/Decode.lean ====
section
/-! DEFINITION. The command decoder, total on every 32-bit word with every DATA and rejecting by name, and after it
the encoder (30_encoding R43 to R57). -/

namespace Sys2Proof

/-- OP, bits 3:0 (30_encoding R43). -/
def CmdWord.op (w : CmdWord) : BitVec 4 := w.extractLsb' 0 4
/-- RSV0, bits 7:4. -/
def CmdWord.rsv0 (w : CmdWord) : BitVec 4 := w.extractLsb' 4 4
/-- S, bit 8. -/
def CmdWord.s (w : CmdWord) : BitVec 1 := w.extractLsb' 8 1
/-- IBM1, bits 10:9. -/
def CmdWord.ibm1 (w : CmdWord) : BitVec 2 := w.extractLsb' 9 2
/-- FD, bits 12:11. -/
def CmdWord.fd (w : CmdWord) : BitVec 2 := w.extractLsb' 11 2
/-- FMT, bits 12:8. -/
def CmdWord.fmtBits (w : CmdWord) : BitVec 5 := w.extractLsb' 8 5
/-- RSV1, bits 15:13. -/
def CmdWord.rsv1 (w : CmdWord) : BitVec 3 := w.extractLsb' 13 3
/-- A, bits 23:16. -/
def CmdWord.a (w : CmdWord) : BitVec 8 := w.extractLsb' 16 8
/-- B, bits 31:24. -/
def CmdWord.b (w : CmdWord) : BitVec 8 := w.extractLsb' 24 8

/-- The format FMT encodes (30_encoding R45). -/
def CmdWord.fmt (w : CmdWord) : Fmt := ⟨w.s == 1#1, w.ibm1.toFin, w.fd.toFin⟩

/-- The table id in field A of READ_ENUM (30_encoding R47). -/
def TableId.ofCode? (a : BitVec 8) : Option TableId :=
  match a.toNat with
  | 0 => some .accuracy
  | 1 => some .stability
  | 2 => some .validity
  | _ => none

/-- The table id's code (30_encoding R47, 42_unpack R92). -/
def TableId.code : TableId → BitVec 8
  | .accuracy => 0
  | .stability => 1
  | .validity => 2

/-- The sensor kind in field B of UNPACK.PARTICLE (30_encoding R48). -/
def SensorKind.ofCode? (b : BitVec 8) : Option SensorKind :=
  match b.toNat with
  | 0 => some .none
  | 1 => some .ppd42
  | 2 => some .sds011
  | _ => Option.none

/-- The sensor kind's code (42_unpack R94). -/
def SensorKind.code : SensorKind → BitVec 8
  | .none => 0
  | .ppd42 => 1
  | .sds011 => 2

/-- Why a (CMD, DATA) pair encodes no command: the five cases of 30_encoding R56. The block reports all of them as
ILLEGAL_COMMAND. -/
inductive Illegal where
  | opcode
  | reserved
  | unusedField
  | argument
  | data
  deriving DecidableEq, Repr

/-- The decoder's answer: a command, or the reason there is none. -/
inductive Decoded where
  | instr (i : Instr)
  | illegal (r : Illegal)
  deriving DecidableEq, Repr

/-- The command decoded, if any. -/
def Decoded.toOption : Decoded → Option Instr
  | .instr i => some i
  | .illegal _ => none

/-- A command of the given fields: refused where an unused field is not 0 (30_encoding R46 to R48). -/
def decodeUnless (unused : Bool) (d : Decoded) : Decoded :=
  if unused then .illegal .unusedField else d

/-- A command that takes no DATA: a non-empty DATA, or a pair, is refused (30_encoding R49). -/
def decodeNoData (d : Data) (i : Instr) : Decoded :=
  match d with
  | .bytes [] => .instr i
  | .bytes (_ :: _) => .illegal .data
  | .ratio _ _ => .illegal .data

/-- LOAD: DATA is exactly A bytes (30_encoding R49). -/
def decodeLoad (len : BitVec 8) (d : Data) : Decoded :=
  match d with
  | .bytes bs => if bs.length = len.toNat then .instr (.load len bs) else .illegal .data
  | .ratio _ _ => .illegal .data

/-- DECODE: DATA is exactly width(fmt) bytes (30_encoding R50). -/
def decodeDecode (fmt : Fmt) (d : Data) : Decoded :=
  match d with
  | .bytes bs => if bs.length = fmt.width then .instr (.decode fmt bs) else .illegal .data
  | .ratio _ _ => .illegal .data

/-- ENCODE: DATA is a pair (NUM, DEN) with DEN ≠ 0 (30_encoding R51). -/
def decodeEncode (fmt : Fmt) (d : Data) : Decoded :=
  match d with
  | .bytes _ => .illegal .data
  | .ratio num den => if den = 0 then .illegal .data else .instr (.encode fmt num den)

/-- READ_ENUM: A is a table id, 0..2 (30_encoding R47). -/
def decodeReadEnum (a : BitVec 8) (d : Data) : Decoded :=
  match TableId.ofCode? a with
  | none => .illegal .argument
  | some t => decodeNoData d (.readEnum t)

/-- UNPACK: A is the category, and B the sensor kind for PARTICLE and 0 for the others (30_encoding R47, R48). -/
def decodeUnpack (a b : BitVec 8) (d : Data) : Decoded :=
  match a.toNat with
  | 0 => decodeUnless (b != 0) (decodeNoData d .unpackAir)
  | 1 => decodeUnless (b != 0) (decodeNoData d .unpackAirQuality)
  | 2 => decodeUnless (b != 0) (decodeNoData d .unpackLight)
  | 3 => decodeUnless (b != 0) (decodeNoData d .unpackSound)
  | 4 =>
    match SensorKind.ofCode? b with
    | none => .illegal .argument
    | some k => decodeNoData d (.unpackParticle k)
  | _ => .illegal .argument

/-- The command decoder (30_encoding R55, R56). -/
def decode (c : Command) : Decoded :=
  let w := c.word
  if w.rsv0 ≠ 0 ∨ w.rsv1 ≠ 0 then .illegal .reserved
  else
    match w.op.toNat with
    | 0x1 => decodeUnless (w.fmtBits != 0 || w.b != 0) (decodeLoad w.a c.data)
    | 0x2 => decodeUnless (w.a != 0 || w.b != 0) (decodeDecode w.fmt c.data)
    | 0x3 => decodeUnless (w.a != 0 || w.b != 0) (decodeEncode w.fmt c.data)
    | 0x4 => decodeUnless (w.a != 0 || w.b != 0) (decodeNoData c.data (.readSingle w.fmt))
    | 0x5 => decodeUnless (w.fmtBits != 0 || w.b != 0) (decodeReadEnum w.a c.data)
    | 0x6 => decodeUnless (w.b != 0) (decodeNoData c.data (.readStriped w.fmt w.a))
    | 0x7 => decodeUnless (w.fmtBits != 0) (decodeUnpack w.a w.b c.data)
    | 0x8 => decodeUnless (w.fmtBits != 0 || w.a != 0 || w.b != 0) (decodeNoData c.data .query)
    | _ => .illegal .opcode

/-- FMT of a format, bits 12:8 of the word: FD, IBM1, S (30_encoding R45). -/
def Fmt.bits (f : Fmt) : BitVec 5 :=
  (BitVec.ofFin f.fd : BitVec 2) ++ (BitVec.ofFin f.ibm1 : BitVec 2) ++ BitVec.ofBool f.signed

/-- A command word from its fields, reserved fields 0 (30_encoding R43, R44). -/
def CmdWord.ofFields (op : BitVec 4) (fmt : BitVec 5) (a b : BitVec 8) : CmdWord :=
  b ++ a ++ 0#3 ++ fmt ++ 0#4 ++ op

/-- The command word of an instruction (30_encoding R55). -/
def encodeWord : Instr → CmdWord
  | .load len _ => CmdWord.ofFields 0x1 0 len 0
  | .decode fmt _ => CmdWord.ofFields 0x2 fmt.bits 0 0
  | .encode fmt _ _ => CmdWord.ofFields 0x3 fmt.bits 0 0
  | .readSingle fmt => CmdWord.ofFields 0x4 fmt.bits 0 0
  | .readEnum t => CmdWord.ofFields 0x5 0 t.code 0
  | .readStriped fmt count => CmdWord.ofFields 0x6 fmt.bits count 0
  | .unpackAir => CmdWord.ofFields 0x7 0 0 0
  | .unpackAirQuality => CmdWord.ofFields 0x7 0 1 0
  | .unpackLight => CmdWord.ofFields 0x7 0 2 0
  | .unpackSound => CmdWord.ofFields 0x7 0 3 0
  | .unpackParticle k => CmdWord.ofFields 0x7 0 4 k.code
  | .query => CmdWord.ofFields 0x8 0 0 0

/-- The data operand of an instruction (30_encoding R49 to R51). -/
def encodeData : Instr → Data
  | .load _ bytes => .bytes bytes
  | .decode _ bytes => .bytes bytes
  | .encode _ num den => .ratio num den
  | .readSingle _ => .bytes []
  | .readEnum _ => .bytes []
  | .readStriped _ _ => .bytes []
  | .unpackAir => .bytes []
  | .unpackAirQuality => .bytes []
  | .unpackLight => .bytes []
  | .unpackSound => .bytes []
  | .unpackParticle _ => .bytes []
  | .query => .bytes []

/-- The pair (CMD, DATA) that encodes an instruction. -/
def encode (i : Instr) : Command := ⟨encodeWord i, encodeData i⟩

/-- The mnemonic of an instruction in spec/opcode_table.json. -/
def Instr.mnemonic : Instr → String
  | .load _ _ => "LOAD"
  | .decode _ _ => "DECODE"
  | .encode _ _ _ => "ENCODE"
  | .readSingle _ => "READ_SINGLE"
  | .readEnum _ => "READ_ENUM"
  | .readStriped _ _ => "READ_STRIPED"
  | .unpackAir => "UNPACK.AIR"
  | .unpackAirQuality => "UNPACK.AIRQUALITY"
  | .unpackLight => "UNPACK.LIGHT"
  | .unpackSound => "UNPACK.SOUND"
  | .unpackParticle _ => "UNPACK.PARTICLE"
  | .query => "QUERY"

/-- The rows of spec/opcode_table.json: mnemonic, match and mask. -/
def opcodeTable : List (String × CmdWord × CmdWord) :=
  [("LOAD", 0x00000001, 0xFF00FFFF), ("DECODE", 0x00000002, 0xFFFFE0FF), ("ENCODE", 0x00000003, 0xFFFFE0FF),
   ("READ_SINGLE", 0x00000004, 0xFFFFE0FF), ("READ_ENUM", 0x00000005, 0xFFFCFFFF),
   ("READ_STRIPED", 0x00000006, 0xFF00E0FF), ("UNPACK.AIR", 0x00000007, 0xFFFFFFFF),
   ("UNPACK.AIRQUALITY", 0x00010007, 0xFFFFFFFF), ("UNPACK.LIGHT", 0x00020007, 0xFFFFFFFF),
   ("UNPACK.SOUND", 0x00030007, 0xFFFFFFFF), ("UNPACK.PARTICLE", 0x00040007, 0xFCFFFFFF),
   ("QUERY", 0x00000008, 0xFFFFFFFF)]

/-- The table's two constraints: READ_ENUM has A ≠ 3 and UNPACK.PARTICLE has B ≠ 3. -/
def rowConstraint (mnemonic : String) (w : CmdWord) : Prop :=
  (mnemonic = "READ_ENUM" → w.a ≠ 3) ∧ (mnemonic = "UNPACK.PARTICLE" → w.b ≠ 3)

/-- The command word that a number gives when its low nbits are taken and all bits above them are 0. -/
def tableWord (nbits w : Nat) : CmdWord := BitVec.ofNat 32 (w % 2 ^ nbits)

/-- A data operand of the shape a word's opcode asks for: zero bytes, as many as the word says, and for ENCODE the
number 0/1, since DEN = 0 encodes no command (30_encoding R49 to R51; DESIGN CHOICE, log entry 8). -/
def zeroData (w : CmdWord) : Data :=
  match w.op.toNat with
  | 0x1 => .bytes (List.replicate w.a.toNat 0)
  | 0x2 => .bytes (List.replicate w.fmt.width 0)
  | 0x3 => .ratio 0 1
  | _ => .bytes []

/-- The instruction the decoder reads from a row's word, offered with the data operand `zeroData`. -/
def decodeTableWord (nbits w : Nat) : Option Instr :=
  (decode ⟨tableWord nbits w, zeroData (tableWord nbits w)⟩).toOption

end Sys2Proof
end

