-- ==== Sys2Proof/Config.lean ====
section
/-! DEFINITION. The implementation parameters (00_scope R5, R6; 10_state R23). They are fixed when the block is
built; no command reads them as data or writes them. The OPEN ones of this hardware are constants without a body. -/

namespace Sys2Proof

/-- An enumerated value an enum table returns: its 8-bit code and its name (00_scope R6). -/
structure Variant where
  code : Byte
  name : String
  deriving DecidableEq, Repr

/-- A byte to variant table; `none` means the byte is not a recognized value (00_scope R6). -/
abbrev EnumTable := Byte → Option Variant

/-- The codes of the table's variants are pairwise distinct: two variants with one code are the same variant
(00_scope R6; DEDUCED, log entry 4). -/
def EnumTable.Distinct (t : EnumTable) : Prop :=
  ∀ a b u v, t a = some u → t b = some v → u.code = v.code → u = v

/-- AQI_OVER_POLICY (42_unpack R91). -/
inductive AqiOverPolicy where
  | none
  | clamp
  | error
  deriving DecidableEq, Repr

/-- The parameters a command's meaning depends on, as one argument (10_state R23), with CMD_LATENCY, which no rule
reads (70_reset_and_hazards R128; log entry 5). -/
structure Config where
  accuracy   : EnumTable
  stability  : EnumTable
  validity   : EnumTable
  unitOfKind : SensorKind → String
  aqiOver    : AqiOverPolicy
  cmdLatency : Nat

/-- OPEN: the variant code ACCURACY_TABLE gives each byte (42_unpack R92; log entry 4). -/
opaque Config.accuracyCode : Byte → Option Byte
/-- OPEN: ACCURACY_TABLE's name for each code (30_encoding R54: "the configured table's name for that code"). -/
opaque Config.accuracyName : Byte → String
/-- OPEN: the variant code STABILITY_TABLE gives each byte (42_unpack R92; log entry 4). -/
opaque Config.stabilityCode : Byte → Option Byte
/-- OPEN: STABILITY_TABLE's name for each code. -/
opaque Config.stabilityName : Byte → String
/-- OPEN: UNIT_OF_KIND (42_unpack R95; log entry 4). -/
opaque Config.openUnitOfKind : SensorKind → String
/-- OPEN: CMD_LATENCY, in units the spec does not give; nothing reads it (70_reset_and_hazards R128; log entry 5). -/
opaque Config.openLatency : Nat

end Sys2Proof
end

