-- ==== Sys2Proof/Machine/State.lean ====
section
/-! DEFINITION. The state of the block, the responses it gives, and the state after reset (10_state R13 to R27,
30_encoding R42, R52 to R54). -/

namespace Sys2Proof.Machine

/-- The frame buffer as cells (address, byte), addresses strictly rising. An address with no cell holds no byte
(20_memory R29; log entry 2). -/
abbrev Memory := List Host.Cell

/-- RSTATE: whether the frame reader accepts reads (10_state R15). -/
inductive RState where
  | ready
  | fault
  deriving DecidableEq, Repr

/-- The error codes of RSP_STATUS and ERR. `ok` is code 0, named NONE in ERR. Codes 8 to 15 are never produced and
have no constructor (60_exceptions R105). -/
inductive Err where
  | ok
  | bufferUnderrun
  | unknownVariant
  | encodingRange
  | noParticleSensor
  | illegalCommand
  | frameAborted
  | aqiTierUndefined
  deriving DecidableEq, Repr

/-- A VALUE, the result of decoding a fixed-point field (30_encoding R53, 40_codec R60). -/
structure Value where
  signed  : Bool
  rawSign : Bool
  mag     : BitVec 32
  frac    : Byte
  fd      : Fin 4
  deriving DecidableEq, Repr

/-- The AQI tiers; `noTier` is the tier NONE, code 7 (30_encoding R54, 42_unpack R90, R91). -/
inductive Tier where
  | good
  | acceptable
  | substandard
  | poor
  | bad
  | veryBad
  | noTier
  deriving DecidableEq, Repr

/-- The field names of the records (42_unpack R88, R89). -/
inductive FieldName where
  | tC
  | pPa
  | hPc
  | gOhm
  | aqi
  | aqiTier
  | co2e
  | bVoc
  | accuracy
  | illuminance
  | white
  | spl
  | splBands
  | peakAmplitude
  | stability
  | dutyCycle
  | concentration
  | unit
  | validity
  deriving DecidableEq, Repr

/-- An item of a record (30_encoding R52, R54). -/
inductive Item where
  | value (v : Value)
  | values (vs : List Value)
  | variant (table : TableId) (v : Variant)
  | tier (t : Tier)
  | unit (kind : SensorKind) (unitName : String)
  deriving DecidableEq, Repr

/-- RSP_PAYLOAD, by command (30_encoding R52). -/
inductive Payload where
  | empty
  | value (v : Value)
  | bytes (bs : List Byte)
  | variant (table : TableId) (v : Variant)
  | values (vs : List Value)
  | record (fields : List (FieldName × Item))
  | status (w : BitVec 32)
  deriving DecidableEq, Repr

/-- One response (RSP_STATUS, RSP_PAYLOAD) (30_encoding R42). -/
structure Response where
  status  : Err
  payload : Payload
  deriving DecidableEq, Repr

/-- What the host can do to the block: assert RST between commands, or offer a command (70_reset_and_hazards R131). -/
inductive HostEvent where
  | rst
  | offer (c : Command)
  deriving DecidableEq, Repr

/-- The architectural state (FRAME, LEN, CUR, RSTATE, ERR) (10_state R13), and the host's side of the interface:
the events still to come and the responses given so far, each oldest first (the model's own; log entry 1). -/
structure State where
  mem    : Memory
  len    : BitVec 8
  cur    : BitVec 8
  rstate : RState
  err    : Err
  inbox  : List HostEvent
  outbox : List Response
  deriving DecidableEq, Repr

/-- Why the model stops. -/
inductive Fault where
  /-- A frame read reached an address that holds no byte (20_memory R29). Raised by the bounds-checked reads of
  Machine/Ops.lean, and only in a state that breaks len(FRAME) = LEN, which no run reaches (10_state R18). SAFE: the
  model stops and claims nothing. -/
  | absentByte (addr : Nat)
  deriving DecidableEq, Repr

/-- Why the model has no meaning for an instruction. -/
inductive Refusal where
  /-- The instruction has no meaning in this model. Raised only by an arm of `exec`; no arm does. SAFE. -/
  | notModelled (mnemonic : String)
  deriving DecidableEq, Repr

/-- The state after reset and after power-on (10_state R27, 70_reset_and_hazards R123, R124), with nothing offered and
nothing answered yet (log entry 1). -/
def State.reset : State where
  mem    := []
  len    := 0
  cur    := 0
  rstate := .ready
  err    := .ok
  inbox  := []
  outbox := []

end Sys2Proof.Machine
end

