-- ==== Sys2Proof/Machine/Operands.lean ====
section
/-! DEFINITION. The operand forms: fixed-point fields, decoded and encoded (40_codec), striped regions (20_memory R32),
enum tables, AQI tiers and units (42_unpack), and this hardware's configuration (00_scope R5). -/

namespace Sys2Proof.Machine

/-- le(b): the first byte is the least significant (00_scope R9). -/
def le : List Byte → Nat
  | [] => 0
  | b :: bs => b.toNat + 256 * le bs

/-- The n bytes of m, least significant first (40_codec R66). -/
def toLe : Nat → Nat → List Byte
  | 0, _ => []
  | n + 1, m => BitVec.ofNat 8 m :: toLe n (m / 256)

/-- b[i .. i+n) (00_scope R9). -/
def slice (b : List Byte) (i n : Nat) : List Byte := (b.drop i).take n

/-- decode_parts(fmt, ibytes, fbyte) (40_codec R60). The fraction byte is used as it is read (R61). -/
def decodeParts (fmt : Fmt) (ibytes : List Byte) (fbyte : Byte) : Value where
  signed  := fmt.signed
  rawSign := fmt.signed && (le ibytes).testBit (8 * fmt.ib - 1)
  mag     := BitVec.ofNat 32 (if fmt.signed then le ibytes % 2 ^ (8 * fmt.ib - 1) else le ibytes)
  frac    := if fmt.fd.val > 0 then fbyte else 0
  fd      := fmt.fd

/-- decode(fmt, bytes): the integer bytes, then the fraction byte where the format has one (40_codec R60). -/
def decodeValue (fmt : Fmt) (bytes : List Byte) : Value :=
  decodeParts fmt (slice bytes 0 fmt.ib) (if fmt.fd.val > 0 then bytes.getD fmt.ib 0 else 0)

/-- Element i of a striped region of n elements: integer sub-block at offset i·ib, fraction byte at offset n·ib + i
(20_memory R32, 41_frame R80; conflict C1). -/
def stripedElement (fmt : Fmt) (n : Nat) (region : List Byte) (i : Nat) : Value :=
  decodeParts fmt (slice region (i * fmt.ib) fmt.ib)
    (if fmt.fd.val > 0 then region.getD (n * fmt.ib + i) 0 else 0)

/-- The n elements of a striped region, element 0 first (41_frame R80, R81). -/
def stripedValues (fmt : Fmt) (n : Nat) (region : List Byte) : List Value :=
  (List.range n).map (stripedElement fmt n region)

/-- scaled(v) = mag × 10^fd + frac (40_codec R62). -/
def Value.scaled (v : Value) : Nat := v.mag.toNat * 10 ^ v.fd.val + v.frac.toNat

/-- numeric(v), the exact rational value (40_codec R62). -/
def Value.numeric (v : Value) : Rat :=
  (if v.rawSign then -1 else 1) * ((v.mag.toNat : Rat) + (v.frac.toNat : Rat) / (10 ^ v.fd.val : Rat))

/-- q_neg, M and F of an encode, by exact integer arithmetic (40_codec R64). -/
structure Split where
  neg : Bool
  int : Nat
  frac : Nat
  deriving DecidableEq, Repr

/-- The split of q = NUM/DEN (40_codec R64). -/
def splitNumber (fmt : Fmt) (num : Numerator) (den : Denominator) : Split where
  neg  := num.toInt < 0
  int  := num.toInt.natAbs / den.toNat
  frac := (num.toInt.natAbs % den.toNat) * fmt.scale / den.toNat

/-- The four cases in which encode fails with ENCODING_RANGE (40_codec R65). -/
def rangeFails (fmt : Fmt) (p : Split) : Bool :=
  (p.neg && !fmt.signed) ||
  (fmt.signed && decide (p.int ≥ 2 ^ (8 * fmt.ib - 1))) ||
  (!fmt.signed && decide (p.int ≥ 2 ^ (8 * fmt.ib))) ||
  (decide (fmt.fd.val > 0) && decide (p.frac ≥ 256))

/-- pack: integer bytes little-endian, the sign flag OR'd into the last of them, and the fraction byte only when
fd > 0 (40_codec R66; conflict C4). -/
def packNumber (fmt : Fmt) (p : Split) : List Byte :=
  (toLe fmt.ib p.int).modify (fmt.ib - 1) (fun b => if fmt.signed && p.neg then b ||| 0x80 else b) ++
  (if fmt.fd.val > 0 then [BitVec.ofNat 8 p.frac] else [])

/-- encode(fmt, NUM/DEN): the bytes, or `none` for ENCODING_RANGE (40_codec R67). -/
def encodeNumber (fmt : Fmt) (num : Numerator) (den : Denominator) : Option (List Byte) :=
  if rangeFails fmt (splitNumber fmt num den) then none
  else some (packNumber fmt (splitNumber fmt num den))

/-- VALIDITY_TABLE: 0 is INVALID and 1 is VALID, every other byte none (42_unpack R93). -/
def validityTable : EnumTable := fun b =>
  match b.toNat with
  | 0 => some ⟨0, "INVALID"⟩
  | 1 => some ⟨1, "VALID"⟩
  | _ => none

/-- A table from the code each byte has and the name each code has. Every table whose codes are pairwise distinct
has this form (00_scope R6; log entry 4). -/
def tableOf (code : Byte → Option Byte) (name : Byte → String) : EnumTable := fun b =>
  (code b).map fun c => ⟨c, name c⟩

/-- This hardware: AQI_OVER_POLICY is NONE, VALIDITY_TABLE is fixed, and the OPEN parameters are the constants of
Config.lean (00_scope R5; log entries 4 to 6). -/
def hardware : Config where
  accuracy   := tableOf Config.accuracyCode Config.accuracyName
  stability  := tableOf Config.stabilityCode Config.stabilityName
  validity   := validityTable
  unitOfKind := Config.openUnitOfKind
  aqiOver    := .none
  cmdLatency := Config.openLatency

/-- TABLE[t] (41_frame R79, 42_unpack R92). -/
def tableFor (cfg : Config) : TableId → EnumTable
  | .accuracy => cfg.accuracy
  | .stability => cfg.stability
  | .validity => cfg.validity

/-- The ordered threshold table of the AQI tiers (42_unpack R90). -/
def aqiThresholds : List (Nat × Tier) :=
  [(49, .good), (99, .acceptable), (149, .substandard), (199, .poor), (299, .bad), (499, .veryBad)]

/-- tier(v): the first entry whose threshold is ≥ numeric(v), compared exactly; `none` is OVER (42_unpack R90). -/
def tierOf (v : Value) : Option Tier :=
  (aqiThresholds.find? fun e => decide (v.scaled ≤ e.1 * 10 ^ v.fd.val)).map Prod.snd

/-- The tier under AQI_OVER_POLICY; `none` is the failure AQI_TIER_UNDEFINED (42_unpack R91). -/
def tierUnder (policy : AqiOverPolicy) (v : Value) : Option Tier :=
  match tierOf v with
  | some t => some t
  | none =>
    match policy with
    | .none => some .noTier
    | .clamp => some .veryBad
    | .error => none

/-- UNIT(kind) = (kind code, UNIT_OF_KIND(kind)) (42_unpack R95). -/
def unitItem (cfg : Config) (kind : SensorKind) : Item := .unit kind (cfg.unitOfKind kind)

end Sys2Proof.Machine
end

