-- ==== Sys2Proof/Machine/Flags.lean ====
section
/-! DEFINITION. The codes and flags: error codes (60_exceptions R105), the STATUS word (10_state R22), the NEG flag of
a VALUE and the packed forms of the payload items (30_encoding R53, R54; 40_codec R62). -/

namespace Sys2Proof.Machine

/-- The numeric code of an error (60_exceptions R105). -/
def Err.code : Err → BitVec 4
  | .ok => 0
  | .bufferUnderrun => 1
  | .unknownVariant => 2
  | .encodingRange => 3
  | .noParticleSensor => 4
  | .illegalCommand => 5
  | .frameAborted => 6
  | .aqiTierUndefined => 7

/-- Whether a frame command that fails with this error in READY puts the reader in FAULT (60_exceptions R108). -/
def Err.aborts : Err → Bool
  | .ok => false
  | .bufferUnderrun => true
  | .unknownVariant => true
  | .encodingRange => false
  | .noParticleSensor => true
  | .illegalCommand => false
  | .frameAborted => false
  | .aqiTierUndefined => true

/-- The FAULT bit of STATUS (10_state R22). -/
def RState.bit : RState → BitVec 1
  | .ready => 0
  | .fault => 1

/-- STATUS: LEN 7:0, CUR 15:8, ERR 19:16, FAULT 20, and 0 above (10_state R22, 41_frame R84). -/
def statusWord (s : State) : BitVec 32 :=
  s.len.setWidth 32 ||| (s.cur.setWidth 32 <<< 8) ||| (s.err.code.setWidth 32 <<< 16) |||
    (s.rstate.bit.setWidth 32 <<< 20)

/-- NEG(v): numeric(v) < 0, so clear for negative zero (40_codec R62). -/
def Value.neg (v : Value) : Bool := v.rawSign && (v.mag != 0 || v.frac != 0)

/-- A VALUE packed into 64 bits (30_encoding R53). -/
def Value.pack (v : Value) : BitVec 64 :=
  0#19 ++ BitVec.ofBool v.neg ++ BitVec.ofBool v.rawSign ++ BitVec.ofBool v.signed ++
    (BitVec.ofFin v.fd : BitVec 2) ++ v.frac ++ v.mag

/-- A VARIANT on the wire: the table id in bits 9:8 and the code in bits 7:0 (30_encoding R54; log entry 9). -/
def variantWire (t : TableId) (v : Variant) : BitVec 10 := t.code.setWidth 2 ++ v.code

/-- The TIER code; 6 is never produced (30_encoding R54; log entry 9). -/
def Tier.code : Tier → BitVec 3
  | .good => 0
  | .acceptable => 1
  | .substandard => 2
  | .poor => 3
  | .bad => 4
  | .veryBad => 5
  | .noTier => 7

/-- The tier's name (42_unpack R90, R91). -/
def Tier.name : Tier → String
  | .good => "GOOD"
  | .acceptable => "ACCEPTABLE"
  | .substandard => "SUBSTANDARD"
  | .poor => "POOR"
  | .bad => "BAD"
  | .veryBad => "VERY_BAD"
  | .noTier => "NONE"

/-- The field's name as the layouts spell it (42_unpack R88, R89). -/
def FieldName.name : FieldName → String
  | .tC => "T_C"
  | .pPa => "P_Pa"
  | .hPc => "H_pc"
  | .gOhm => "G_ohm"
  | .aqi => "AQI"
  | .aqiTier => "AQI_tier"
  | .co2e => "CO2e"
  | .bVoc => "bVOC"
  | .accuracy => "accuracy"
  | .illuminance => "illuminance"
  | .white => "white"
  | .spl => "SPL"
  | .splBands => "SPL_bands"
  | .peakAmplitude => "peak_amplitude"
  | .stability => "stability"
  | .dutyCycle => "duty_cycle"
  | .concentration => "concentration"
  | .unit => "unit"
  | .validity => "validity"

/-- The name of an error code (60_exceptions R105). -/
def Err.name : Err → String
  | .ok => "OK"
  | .bufferUnderrun => "BUFFER_UNDERRUN"
  | .unknownVariant => "UNKNOWN_VARIANT"
  | .encodingRange => "ENCODING_RANGE"
  | .noParticleSensor => "NO_PARTICLE_SENSOR"
  | .illegalCommand => "ILLEGAL_COMMAND"
  | .frameAborted => "FRAME_ABORTED"
  | .aqiTierUndefined => "AQI_TIER_UNDEFINED"

end Sys2Proof.Machine
end

