-- ==== Sys2Proof/Machine/Ops.lean ====
section
/-! DEFINITION. The named operations over the state: the frame buffer (20_memory), the cursor, answering, raising an
error as one shared operation (60_exceptions R108) and leaving FAULT beside it (R111), the reads at the cursor
(41_frame R77 to R80), the form every frame command has (41_frame R73 to R75), and taking the host's next event. -/

namespace Sys2Proof.Machine

/-- The outcome of a command: a next state in every case but a read of an absent byte (00_scope R11). -/
abbrev Result := Host.Outcome State Fault Refusal

/-- The byte at an address, if the address holds one (20_memory R29). -/
def Memory.byte (m : Memory) (a : Nat) : Option Byte := m.lookup a

/-- Bytes placed at consecutive addresses from a. -/
def Memory.placeFrom (a : Nat) : List Byte → Memory
  | [] => []
  | b :: bs => (a, b) :: Memory.placeFrom (a + 1) bs

/-- The frame whose bytes are bs, byte 0 first (30_encoding R49, 41_frame R76). -/
def Memory.ofBytes (bs : List Byte) : Memory := Memory.placeFrom 0 bs

/-- The canonical form: addresses strictly rising, each below FRAME_CAP = 255 (20_memory R29; log entry 2). -/
abbrev Memory.wf (m : Memory) : Prop :=
  (m.map Prod.fst).Pairwise (· < ·) ∧ ∀ c ∈ m, c.1 < 255

/-- MemRead(a, n): the n bytes from address a, or the first address that holds none (00_scope R10). -/
def Memory.read (m : Memory) (a : Nat) : Nat → Except Nat (List Byte)
  | 0 => .ok []
  | n + 1 =>
    match m.byte a with
    | none => .error a
    | some b =>
      match Memory.read m (a + 1) n with
      | .ok bs => .ok (b :: bs)
      | .error x => .error x

/-- FRAME as the byte list of 10_state R13. -/
def State.frame (s : State) : List Byte := s.mem.map Prod.snd

/-- Moves the cursor (10_state R17). -/
def State.setCur (s : State) (c : BitVec 8) : State := { s with cur := c }

/-- Hands a response back to the host (30_encoding R42). -/
def State.answer (s : State) (e : Err) (p : Payload) : State := { s with outbox := s.outbox ++ [⟨e, p⟩] }

/-- Puts the reader in FAULT with the failure's code, the cursor where the command began (60_exceptions R108). -/
def State.abort (s : State) (e : Err) : State := { s with rstate := .fault, err := e }

/-- Raises an error: the response carries its code alone, and the state changes only for the failures of a frame
command in READY (60_exceptions R107, R108). -/
def State.raise (s : State) (e : Err) : State :=
  (if e.aborts then s.abort e else s).answer e .empty

/-- Installs a frame; with reset, the only way out of FAULT (41_frame R76, 60_exceptions R111). -/
def State.install (s : State) (len : BitVec 8) (bytes : List Byte) : State :=
  { s with mem := Memory.ofBytes bytes, len := len, cur := 0, rstate := .ready, err := .ok }

/-- RST: every component of the block takes its reset value; what the host has still to send and has already
received is not the block's (70_reset_and_hazards R123; log entry 3). -/
def State.applyReset (s : State) : State :=
  { State.reset with inbox := s.inbox, outbox := s.outbox }

/-- Takes the host's first event off the list. -/
def State.withInbox (s : State) (rest : List HostEvent) : State := { s with inbox := rest }

/-- What a read at the cursor gives: a result and the cursor after it, an error raised, or an absent byte. -/
inductive ReadOut (α : Type) where
  | ok (x : α) (cur : BitVec 8)
  | raise (e : Err)
  | absent (addr : Nat)
  deriving Repr

/-- Goes on with a read's result and cursor; an error ends the command (00_scope R10). -/
def ReadOut.bind {α β : Type} (r : ReadOut α) (f : α → BitVec 8 → ReadOut β) : ReadOut β :=
  match r with
  | .ok x c => f x c
  | .raise e => .raise e
  | .absent a => .absent a

/-- need(w), then MemRead(CUR, w), then CUR + w (41_frame R75, R77). The check LEN − CUR < w is written without
subtraction. -/
def takeBytes (s : State) (w : Nat) (c : BitVec 8) : ReadOut (List Byte) :=
  if s.len.toNat < c.toNat + w then .raise .bufferUnderrun
  else
    match s.mem.read c.toNat w with
    | .ok bs => .ok bs (c + BitVec.ofNat 8 w)
    | .error a => .absent a

/-- rd(fmt): the body of READ_SINGLE without its gate (41_frame R78, 42_unpack §4). -/
def rd (s : State) (fmt : Fmt) (c : BitVec 8) : ReadOut Value :=
  (takeBytes s fmt.width c).bind fun bs c' => .ok (decodeValue fmt bs) c'

/-- rds(fmt, n): the body of READ_STRIPED without its gate (41_frame R80). -/
def rds (s : State) (fmt : Fmt) (n : Nat) (c : BitVec 8) : ReadOut (List Value) :=
  (takeBytes s (n * fmt.width) c).bind fun region c' => .ok (stripedValues fmt n region) c'

/-- rde(t): the body of READ_ENUM without its gate; the underrun check comes before the lookup (41_frame R79). -/
def rde (cfg : Config) (s : State) (t : TableId) (c : BitVec 8) : ReadOut Variant :=
  (takeBytes s 1 c).bind fun bs c' =>
    match tableFor cfg t (bs.headD 0) with
    | none => .raise .unknownVariant
    | some v => .ok v c'

/-- The form of every frame command: the FAULT gate, then the body; on success the cursor moves and the payload is
answered, on an error nothing moves and R108 applies (41_frame R73, R74; 42_unpack R87). -/
def frameCommand (s : State) (body : ReadOut Payload) : Result :=
  if s.rstate = .fault then .next (s.raise .frameAborted)
  else
    match body with
    | .ok p c => .next ((s.setCur c).answer .ok p)
    | .raise e => .next (s.raise e)
    | .absent a => .fault (.absentByte a)

end Sys2Proof.Machine
end

