-- ==== Sys2Proof/Machine/Codec.lean ====
section
/-! DEFINITION. The fixed-point codec commands (40_codec): they write no state and run in READY and FAULT. -/

namespace Sys2Proof.Machine

/-- DECODE (40_codec R63). A DATA of another length than width(fmt) is ILLEGAL_COMMAND (30_encoding R50, R56; log
entry 7). -/
def execDecode (fmt : Fmt) (bytes : List Byte) (s : State) : Result :=
  if bytes.length = fmt.width then .next (s.answer .ok (.value (decodeValue fmt bytes)))
  else .next (s.raise .illegalCommand)

/-- ENCODE (40_codec R67). DEN = 0 is ILLEGAL_COMMAND (30_encoding R51, R56; log entry 7). -/
def execEncode (fmt : Fmt) (num : Numerator) (den : Denominator) (s : State) : Result :=
  if den = 0 then .next (s.raise .illegalCommand)
  else
    match encodeNumber fmt num den with
    | none => .next (s.raise .encodingRange)
    | some bs => .next (s.answer .ok (.bytes bs))

end Sys2Proof.Machine
end

