-- ==== Sys2Proof/Machine/Frame.lean ====
section
/-! DEFINITION. The frame reader's commands (41_frame). -/

namespace Sys2Proof.Machine

/-- LOAD (41_frame R76). A DATA of another length than len is ILLEGAL_COMMAND (30_encoding R49, R56; log entry 7). -/
def execLoad (len : BitVec 8) (bytes : List Byte) (s : State) : Result :=
  if bytes.length = len.toNat then .next ((s.install len bytes).answer .ok .empty)
  else .next (s.raise .illegalCommand)

/-- READ_SINGLE (41_frame R78). -/
def execReadSingle (fmt : Fmt) (s : State) : Result :=
  frameCommand s ((rd s fmt s.cur).bind fun v c => .ok (.value v) c)

/-- READ_ENUM under a configuration (41_frame R79). -/
def readEnumWith (cfg : Config) (t : TableId) (s : State) : Result :=
  frameCommand s ((rde cfg s t s.cur).bind fun v c => .ok (.variant t v) c)

/-- READ_ENUM (41_frame R79). -/
def execReadEnum (t : TableId) (s : State) : Result := readEnumWith hardware t s

/-- READ_STRIPED (41_frame R80). -/
def execReadStriped (fmt : Fmt) (count : BitVec 8) (s : State) : Result :=
  frameCommand s ((rds s fmt count.toNat s.cur).bind fun vs c => .ok (.values vs) c)

/-- QUERY (41_frame R84): it writes no state and runs in READY and FAULT. -/
def execQuery (s : State) : Result := .next (s.answer .ok (.status (statusWord s)))

end Sys2Proof.Machine
end

