-- ==== Sys2Proof/Machine/Unpack.lean ====
section
/-! DEFINITION. The structured telemetry unpacker (42_unpack): one body per category, its field reads in order from
the cursor, under a configuration; the commands run them with this hardware's. A failed body moves nothing (R87). -/

namespace Sys2Proof.Machine

/-- The body of UNPACK.AIR (42_unpack R96). -/
def airBody (s : State) : ReadOut Payload :=
  (rd s .s1_1 s.cur).bind fun t c =>
  (rd s .u4_0 c).bind fun p c =>
  (rd s .u1_2 c).bind fun h c =>
  (rd s .u4_0 c).bind fun g c =>
  .ok (.record [(.tC, .value t), (.pPa, .value p), (.hPc, .value h), (.gOhm, .value g)]) c

/-- The body of UNPACK.AIRQUALITY: the tier is computed right after the AQI field (42_unpack R97, R91). -/
def airQualityBody (cfg : Config) (s : State) : ReadOut Payload :=
  (rd s .u2_1 s.cur).bind fun aqi c =>
  match tierUnder cfg.aqiOver aqi with
  | none => .raise .aqiTierUndefined
  | some tr =>
    (rd s .u2_1 c).bind fun co2e c =>
    (rd s .u2_2 c).bind fun bvoc c =>
    (rde cfg s .accuracy c).bind fun acc c =>
    .ok (.record [(.aqi, .value aqi), (.aqiTier, .tier tr), (.co2e, .value co2e), (.bVoc, .value bvoc),
      (.accuracy, .variant .accuracy acc)]) c

/-- The body of UNPACK.LIGHT (42_unpack R98). -/
def lightBody (s : State) : ReadOut Payload :=
  (rd s .u2_2 s.cur).bind fun l c =>
  (rd s .u2_0 c).bind fun w c =>
  .ok (.record [(.illuminance, .value l), (.white, .value w)]) c

/-- The body of UNPACK.SOUND (42_unpack R99). -/
def soundBody (cfg : Config) (s : State) : ReadOut Payload :=
  (rd s .u1_1 s.cur).bind fun spl c =>
  (rds s .u1_1 6 c).bind fun bands c =>
  (rd s .u2_2 c).bind fun peak c =>
  (rde cfg s .stability c).bind fun st c =>
  .ok (.record [(.spl, .value spl), (.splBands, .values bands), (.peakAmplitude, .value peak),
    (.stability, .variant .stability st)]) c

/-- The body of UNPACK.PARTICLE: kind NONE fails before any field read (42_unpack R100, R101). -/
def particleBody (cfg : Config) (kind : SensorKind) (s : State) : ReadOut Payload :=
  if kind = .none then .raise .noParticleSensor
  else
    (rd s .u1_2 s.cur).bind fun d c =>
    (rd s .u2_2 c).bind fun conc c =>
    (rde cfg s .validity c).bind fun vl c =>
    .ok (.record [(.dutyCycle, .value d), (.concentration, .value conc), (.unit, unitItem cfg kind),
      (.validity, .variant .validity vl)]) c

/-- UNPACK.AIRQUALITY under a configuration. -/
def unpackAirQualityWith (cfg : Config) (s : State) : Result := frameCommand s (airQualityBody cfg s)

/-- UNPACK.SOUND under a configuration. -/
def unpackSoundWith (cfg : Config) (s : State) : Result := frameCommand s (soundBody cfg s)

/-- UNPACK.PARTICLE under a configuration. -/
def unpackParticleWith (cfg : Config) (kind : SensorKind) (s : State) : Result :=
  frameCommand s (particleBody cfg kind s)

/-- UNPACK.AIR (42_unpack R96). -/
def execUnpackAir (s : State) : Result := frameCommand s (airBody s)

/-- UNPACK.AIRQUALITY (42_unpack R97). -/
def execUnpackAirQuality (s : State) : Result := unpackAirQualityWith hardware s

/-- UNPACK.LIGHT (42_unpack R98). -/
def execUnpackLight (s : State) : Result := frameCommand s (lightBody s)

/-- UNPACK.SOUND (42_unpack R99). -/
def execUnpackSound (s : State) : Result := unpackSoundWith hardware s

/-- UNPACK.PARTICLE (42_unpack R101). -/
def execUnpackParticle (kind : SensorKind) (s : State) : Result := unpackParticleWith hardware kind s

end Sys2Proof.Machine
end

