-- ==== Sys2Proof/Machine/Dispatch.lean ====
section
/-! DEFINITION. What each command does: one arm per constructor of `Instr`. -/

namespace Sys2Proof.Machine

def exec (i : Instr) (s : State) : Host.Outcome State Fault Refusal :=
  match i with
  | .load len bytes => Sys2Proof.Machine.execLoad len bytes s
  | .decode fmt bytes => Sys2Proof.Machine.execDecode fmt bytes s
  | .encode fmt num den => Sys2Proof.Machine.execEncode fmt num den s
  | .readSingle fmt => Sys2Proof.Machine.execReadSingle fmt s
  | .readEnum t => Sys2Proof.Machine.execReadEnum t s
  | .readStriped fmt count => Sys2Proof.Machine.execReadStriped fmt count s
  | .unpackAir => Sys2Proof.Machine.execUnpackAir s
  | .unpackAirQuality => Sys2Proof.Machine.execUnpackAirQuality s
  | .unpackLight => Sys2Proof.Machine.execUnpackLight s
  | .unpackSound => Sys2Proof.Machine.execUnpackSound s
  | .unpackParticle kind => Sys2Proof.Machine.execUnpackParticle kind s
  | .query => Sys2Proof.Machine.execQuery s

end Sys2Proof.Machine
end

