-- ==== Sys2Proof/Machine/Offer.lean ====
section
/-! DEFINITION. What an offered pair (CMD, DATA) is to the block: a command to run, or ILLEGAL_COMMAND, checked before
anything else (30_encoding R56, 60_exceptions R110). -/

namespace Sys2Proof.Machine

/-- The response to a pair that encodes no command: ILLEGAL_COMMAND, the state unchanged (30_encoding R56). -/
def answerIllegal (s : State) : Result := .next (s.raise .illegalCommand)

/-- Runs an offered pair with the given meaning of commands (30_encoding R56). -/
def runOffer (meaning : Instr → State → Result) (c : Command) (s : State) : Result :=
  match decode c with
  | .instr i => meaning i s
  | .illegal _ => answerIllegal s

/-- One event of the host: RST, or a transaction (70_reset_and_hazards R123, R131). With no event the block is idle
and holds its state (60_exceptions R121; log entry 1). -/
def runEvent (meaning : Instr → State → Result) (s : State) : Result :=
  match s.inbox with
  | [] => .next s
  | .rst :: rest => .next (s.withInbox rest).applyReset
  | .offer c :: rest => runOffer meaning c (s.withInbox rest)

/-- The host offers this pair next, before what it had still to send. -/
def State.offerNext (s : State) (c : Command) : State := { s with inbox := .offer c :: s.inbox }

end Sys2Proof.Machine
end

