-- ==== Sys2Proof/Machine/Step.lean ====
section
/-! DEFINITION. One step: the host's next event, taken and run to its one outcome (00_scope R11, 20_memory R39). -/

namespace Sys2Proof.Machine

/-- One step of the block. -/
def step (s : State) : Host.Outcome State Fault Refusal := runEvent exec s

/-- The state in which the host offers the row's word next, with the data operand its opcode asks for (log entry 8). -/
def State.withFetchWord (s : State) (nbits w : Nat) : State :=
  s.offerNext ⟨tableWord nbits w, zeroData (tableWord nbits w)⟩

end Sys2Proof.Machine
end

