-- ==== Sys2Proof/Safety.lean ====
section
/-! DEFINITION. What a good state and a safe run are, in the terms the statements use (10_state R18,
60_exceptions R112, 70_reset_and_hazards R132). -/

namespace Sys2Proof.Machine

/-- FRAME holds exactly LEN bytes, at the addresses 0..LEN−1 (10_state R14, R18). -/
abbrev State.FrameHolds (s : State) : Prop := s.mem.map Prod.fst = List.range s.len.toNat

/-- The invariants of 10_state R18: CUR ≤ LEN, len(FRAME) = LEN, and RSTATE = READY exactly when ERR = 0. LEN ≤ 255
holds by its type. -/
structure State.Inv (s : State) : Prop where
  frame : s.FrameHolds
  cursor : s.cur.toNat ≤ s.len.toNat
  flags : s.rstate = .ready ↔ s.err = .ok

/-- The last response given, if any. -/
def State.lastResponse (s : State) : Option Response := s.outbox.getLast?

/-- The n frame bytes from offset i past the cursor. -/
def State.bytesAt (s : State) (i n : Nat) : List Byte := slice s.frame (s.cur.toNat + i) n

/-- The VALUE of a field at offset i past the cursor (42_unpack R88). -/
def State.fieldAt (s : State) (fmt : Fmt) (i : Nat) : Value := decodeValue fmt (s.bytesAt i fmt.width)

/-- The byte at offset i past the cursor. -/
def State.byteAt (s : State) (i : Nat) : Byte := s.frame.getD (s.cur.toNat + i) 0

/-- The state after a success of width w that answers p: the cursor moved, nothing else written (41_frame R75). -/
def State.afterRead (s : State) (w : Nat) (p : Payload) : State :=
  (s.setCur (s.cur + BitVec.ofNat 8 w)).answer .ok p

/-- The state after a frame command fails in READY with e: FAULT, ERR = e, CUR where the command began, and the code
alone in the response (60_exceptions R107, R108). -/
def State.failed (s : State) (e : Err) : State :=
  { s with rstate := .fault, err := e, outbox := s.outbox ++ [⟨e, .empty⟩] }

/-- The state after a response that changes no component of the block. -/
def State.answered (s : State) (e : Err) (p : Payload) : State :=
  { s with outbox := s.outbox ++ [⟨e, p⟩] }

/-- Two states agree on the five components of 10_state R13. -/
def State.SameBlock (s t : State) : Prop :=
  t.mem = s.mem ∧ t.len = s.len ∧ t.cur = s.cur ∧ t.rstate = s.rstate ∧ t.err = s.err

/-- The event by which the host offers an instruction. -/
def offerOf (i : Instr) : HostEvent := .offer (encode i)

/-- The payload that carries a record's item alone, as the READ command of its field answers it; `none` for a tier or
a unit, which no frame byte holds (42_unpack R103). -/
def Item.readPayload : Item → Option Payload
  | .value v => some (.value v)
  | .values vs => some (.values vs)
  | .variant t v => some (.variant t v)
  | .tier _ => none
  | .unit _ _ => none

/-- The READ commands of a category's pseudocode, in order (42_unpack R96 to R101, R103). -/
def categoryReads : Category → List Instr
  | .air => [.readSingle .s1_1, .readSingle .u4_0, .readSingle .u1_2, .readSingle .u4_0]
  | .airQuality => [.readSingle .u2_1, .readSingle .u2_1, .readSingle .u2_2, .readEnum .accuracy]
  | .light => [.readSingle .u2_2, .readSingle .u2_0]
  | .sound => [.readSingle .u1_1, .readStriped .u1_1 6, .readSingle .u2_2, .readEnum .stability]
  | .particle => [.readSingle .u1_2, .readSingle .u2_2, .readEnum .validity]

/-- The UNPACK command of a category; `kind` matters for Particle only. -/
def categoryUnpack (kind : SensorKind) : Category → Instr
  | .air => .unpackAir
  | .airQuality => .unpackAirQuality
  | .light => .unpackLight
  | .sound => .unpackSound
  | .particle => .unpackParticle kind

/-- The row-major rearrangement of a striped region: integer sub-block i, then fraction byte i where fd > 0
(41_frame R83). -/
def rowMajor (fmt : Fmt) (n : Nat) (region : List Byte) : List Byte :=
  (List.range n).flatMap fun i =>
    slice region (i * fmt.ib) fmt.ib ++ slice region (n * fmt.ib + i) fmt.fractionBytes

/-- The state in which the host offers these instructions next, in order, before what it had still to send. -/
def State.offers (s : State) (is : List Instr) : State := { s with inbox := is.map offerOf ++ s.inbox }

/-- The responses t has given since s. -/
def State.since (s t : State) : List Response := t.outbox.drop s.outbox.length

/-- The number q = NUM/DEN of an ENCODE, exactly (30_encoding R51). -/
def encodedNumber (num : Numerator) (den : Denominator) : Rat := (num.toInt : Rat) / (den.toNat : Rat)

/-- M of 40_codec R64: |NUM| div DEN. -/
def integerPart (num : Numerator) (den : Denominator) : Nat := num.toInt.natAbs / den.toNat

/-- F of 40_codec R64: ((|NUM| mod DEN) × 10^fd) div DEN. -/
def fractionPart (fmt : Fmt) (num : Numerator) (den : Denominator) : Nat :=
  num.toInt.natAbs % den.toNat * 10 ^ fmt.fd.val / den.toNat

/-- The four cases of 40_codec R65. -/
def OutOfRange (fmt : Fmt) (num : Numerator) (den : Denominator) : Prop :=
  (num.toInt < 0 ∧ fmt.signed = false) ∨
  (fmt.signed = true ∧ 2 ^ (8 * fmt.ib - 1) ≤ integerPart num den) ∨
  (fmt.signed = false ∧ 2 ^ (8 * fmt.ib) ≤ integerPart num den) ∨
  (0 < fmt.fd.val ∧ 256 ≤ fractionPart fmt num den)

/-- DATA has the shape the fields of the word ask for (30_encoding R49 to R51): op the opcode, a the field A, and
width the width of the format in FMT. -/
def DataFits (op a width : Nat) : Data → Prop
  | .bytes bs => (op = 1 ∧ bs.length = a) ∨ (op = 2 ∧ bs.length = width) ∨ (4 ≤ op ∧ bs = [])
  | .ratio _ den => op = 3 ∧ den ≠ 0

/-- The pair (CMD, DATA) encodes no command (30_encoding R56), written with the bit positions of R43. -/
def IllegalPair (w : CmdWord) (d : Data) : Prop :=
  let op := (w.extractLsb' 0 4).toNat
  let fmt := (w.extractLsb' 8 5).toNat
  let a := (w.extractLsb' 16 8).toNat
  let b := (w.extractLsb' 24 8).toNat
  let width := (w.extractLsb' 9 2).toNat + 1 + (if (w.extractLsb' 11 2).toNat > 0 then 1 else 0)
  op = 0 ∨ 9 ≤ op ∨
  w.extractLsb' 4 4 ≠ 0 ∨ w.extractLsb' 13 3 ≠ 0 ∨
  (fmt ≠ 0 ∧ (op = 1 ∨ op = 5 ∨ op = 7 ∨ op = 8)) ∨
  (a ≠ 0 ∧ (op = 2 ∨ op = 3 ∨ op = 4 ∨ op = 8)) ∨
  (b ≠ 0 ∧ ¬(op = 7 ∧ a = 4)) ∨
  (op = 5 ∧ 3 ≤ a) ∨ (op = 7 ∧ 5 ≤ a) ∨ (op = 7 ∧ a = 4 ∧ 3 ≤ b) ∨
  ¬DataFits op a width d

/-- The errors each command can report besides ILLEGAL_COMMAND, under this hardware's AQI_OVER_POLICY
(60_exceptions R106). -/
def errorsOf : Instr → List Err
  | .load _ _ => []
  | .decode _ _ => []
  | .encode _ _ _ => [.encodingRange]
  | .readSingle _ => [.frameAborted, .bufferUnderrun]
  | .readEnum _ => [.frameAborted, .bufferUnderrun, .unknownVariant]
  | .readStriped _ _ => [.frameAborted, .bufferUnderrun]
  | .unpackAir => [.frameAborted, .bufferUnderrun]
  | .unpackAirQuality => [.frameAborted, .bufferUnderrun, .unknownVariant]
  | .unpackLight => [.frameAborted, .bufferUnderrun]
  | .unpackSound => [.frameAborted, .bufferUnderrun, .unknownVariant]
  | .unpackParticle _ => [.frameAborted, .noParticleSensor, .bufferUnderrun, .unknownVariant]
  | .query => []

end Sys2Proof.Machine
end

