-- ==== Sys2Proof/Certificates/Slice0/Obligations.lean ====
section
/-! DEFINITION. The statements about the model, from the numbered rules of spec/. -/

open Sys2Proof Sys2Proof.Machine

/-! ### Reset, events and the whole machine -/

/-- 10_state R27: the value of every component after reset, and STATUS = 0x00000000. -/
def Obligations.ResetValues : Prop :=
  State.reset.frame = [] ∧ State.reset.len = 0 ∧ State.reset.cur = 0 ∧ State.reset.rstate = .ready ∧
    State.reset.err = .ok ∧ State.reset.err.code = 0 ∧ statusWord State.reset = 0x00000000

/-- 10_state R18: the reset state meets the invariants, and its frame buffer is in canonical form. -/
def Obligations.ResetMeetsInvariant : Prop := State.reset.Inv ∧ State.reset.mem.wf

/-- 70_reset_and_hazards R123: RST gives every component its reset value. That what the host has still to send and has
received stays is the model's choice (log entry 3). -/
def Obligations.RstRestoresReset : Prop :=
  ∀ (s : State) (rest : List HostEvent), s.inbox = .rst :: rest →
    step s = .next { State.reset with inbox := rest, outbox := s.outbox }

/-- 60_exceptions R121: between commands the block holds its state. That a step with nothing offered is a step is the
model's choice (log entry 1). -/
def Obligations.IdleHoldsState : Prop := ∀ s : State, s.inbox = [] → step s = .next s

/-- 00_scope R11, 20_memory R39: an offered pair that decodes is run as that instruction, the offer taken. -/
def Obligations.StepRunsDecoded : Prop :=
  ∀ (s : State) (c : Command) (rest : List HostEvent) (i : Instr),
    s.inbox = .offer c :: rest → decode c = .instr i → step s = exec i { s with inbox := rest }

/-- From every state that meets the invariants of 10_state R18, a step answers a next state, and that state meets them,
its frame buffer in canonical form. -/
def Obligations.StepKeepsInvariant : Prop :=
  ∀ s : State, s.Inv → (∃ t, step s = .next t) ∧ ∀ t, step s = .next t → t.Inv ∧ t.mem.wf

/-- 10_state R18: whatever the host sends after reset, every state reached satisfies 0 ≤ CUR ≤ LEN ≤ FRAME_CAP,
len(FRAME) = LEN and RSTATE = READY ⇔ ERR = 0. -/
def Obligations.EveryReachableStateGood : Prop :=
  ∀ (events : List HostEvent) (k : Nat), ∃ t : State,
    Host.Core.run core k { State.reset with inbox := events } = .next t ∧
      t.cur.toNat ≤ t.len.toNat ∧ t.len.toNat ≤ 255 ∧ t.frame.length = t.len.toNat ∧
      (t.rstate = .ready ↔ t.err.code = 0)

/-- 70_reset_and_hazards R133, 00_scope R11: every pair the host offers is taken, and gets exactly one response. -/
def Obligations.EveryOfferIsAnswered : Prop :=
  ∀ (s : State) (c : Command) (rest : List HostEvent), s.Inv → s.inbox = .offer c :: rest →
    ∃ t r, step s = .next t ∧ t.inbox = rest ∧ t.outbox = s.outbox ++ [r]

/-- 60_exceptions R111: FAULT is left only by LOAD or by reset. -/
def Obligations.OnlyLoadOrResetLeavesFault : Prop :=
  ∀ s t : State, step s = .next t → s.rstate = .fault → t.rstate = .ready →
    (∃ rest, s.inbox = .rst :: rest) ∨
    ∃ c rest len bytes, s.inbox = .offer c :: rest ∧ decode c = .instr (.load len bytes)

/-! ### Encoding -/

/-- 30_encoding R43, R45, R55: decoding an encoded well-formed instruction gives it back, every operand at every value. -/
def Obligations.DecodeOfEncode : Prop := ∀ i : Instr, i.wf = true → decode (encode i) = .instr i

/-- 30_encoding R57: a pair that decodes is the one encoding of a well-formed instruction. -/
def Obligations.EncodeOfDecode : Prop := ∀ (c : Command) (i : Instr), decode c = .instr i → i.wf = true ∧ encode i = c

/-- 30_encoding R56: the pairs that are illegal, exactly; ILLEGAL_COMMAND with an empty payload and no other change of
the state answers each of them, in READY and in FAULT; every other pair is a command. -/
def Obligations.IllegalPairsAnswered : Prop :=
  ∀ (w : CmdWord) (d : Data),
    (IllegalPair w d → ∀ (s : State) (rest : List HostEvent), s.inbox = .offer ⟨w, d⟩ :: rest →
      step s = .next (({ s with inbox := rest } : State).answered .illegalCommand .empty)) ∧
    (¬IllegalPair w d → ∃ i, decode ⟨w, d⟩ = .instr i)

/-- spec/opcode_table.json: a word meets a row's match, mask and constraint exactly when, with some DATA, it decodes to
an instruction of that row. -/
def Obligations.OpcodeTableRows : Prop :=
  ∀ row ∈ opcodeTable, ∀ w : CmdWord,
    (w &&& row.2.2 = row.2.1 ∧ rowConstraint row.1 w) ↔ ∃ d i, decode ⟨w, d⟩ = .instr i ∧ i.mnemonic = row.1

/-- Words written out from the encodings of 30_encoding R43 and R55. -/
def Obligations.DecodeExamples : Prop :=
  decode ⟨0x00030001, .bytes [0x95, 0x05, 0x01]⟩ = .instr (.load 3 [0x95, 0x05, 0x01]) ∧
  decode ⟨0x00001302, .bytes [0x00, 0x80, 0x63]⟩ = .instr (.decode ⟨true, 1, 2⟩ [0x00, 0x80, 0x63]) ∧
  decode ⟨0x00001803, .ratio 255 1000⟩ = .instr (.encode ⟨false, 0, 3⟩ 255 1000) ∧
  decode ⟨0x00060806, .bytes []⟩ = .instr (.readStriped ⟨false, 0, 1⟩ 6) ∧
  decode ⟨0x00020005, .bytes []⟩ = .instr (.readEnum .validity) ∧
  decode ⟨0x02040007, .bytes []⟩ = .instr (.unpackParticle .sds011) ∧
  decode ⟨0x03040007, .bytes []⟩ = .illegal .argument

/-! ### The codec -/

/-- 40_codec R60, R63, R68: DECODE answers the VALUE of its bytes, in READY and in FAULT, and writes no component. That
`exec` of a decode term with DATA of another length, which no pair decodes to, answers ILLEGAL_COMMAND is the model's
choice (log entry 7, DEDUCED). -/
def Obligations.DecodeCommand : Prop :=
  ∀ (fmt : Fmt) (bytes : List Byte) (s : State),
    (bytes.length = fmt.width → ∃ v, exec (.decode fmt bytes) s = .next (s.answered .ok (.value v)) ∧
      v.signed = fmt.signed ∧ v.fd = fmt.fd ∧
      v.rawSign = (fmt.signed && (bytes.getD (fmt.ib - 1) 0).msb) ∧
      v.mag.toNat + (if v.rawSign then 2 ^ (8 * fmt.ib - 1) else 0) =
        ∑ k ∈ Finset.range fmt.ib, (bytes.getD k 0).toNat * 256 ^ k ∧
      (fmt.signed = true → v.mag.toNat < 2 ^ (8 * fmt.ib - 1)) ∧
      v.frac = if fmt.fd.val > 0 then bytes.getD fmt.ib 0 else 0) ∧
    (bytes.length ≠ fmt.width → exec (.decode fmt bytes) s = .next (s.answered .illegalCommand .empty))

/-- 40_codec R62: numeric, NEG and scaled of a VALUE, and negative zero. -/
def Obligations.NumericValue : Prop :=
  ∀ v : Value,
    v.numeric = (if v.rawSign then (-1 : ℚ) else 1) * (v.mag.toNat + v.frac.toNat / 10 ^ v.fd.val) ∧
    (v.neg = true ↔ v.rawSign = true ∧ (v.mag ≠ 0 ∨ v.frac ≠ 0)) ∧
    (v.neg = true ↔ v.numeric < 0) ∧
    v.scaled = v.mag.toNat * 10 ^ v.fd.val + v.frac.toNat ∧
    |v.numeric| = (v.scaled : ℚ) / 10 ^ v.fd.val ∧
    (v.mag = 0 → v.frac = 0 → v.numeric = 0 ∧ v.neg = false)

/-- 40_codec R71: the ranges of the formats the unpacker uses, with any fraction byte and with an in-range one. -/
def Obligations.LayoutFormatRanges : Prop :=
  ∀ bytes : List Byte,
    (let v := decodeValue .u1_1 bytes;
      0 ≤ v.numeric ∧ v.numeric ≤ 280.5 ∧ (v.frac.toNat < 10 → v.numeric ≤ 255.9)) ∧
    (let v := decodeValue .u1_2 bytes;
      0 ≤ v.numeric ∧ v.numeric ≤ 257.55 ∧ (v.frac.toNat < 100 → v.numeric ≤ 255.99)) ∧
    (let v := decodeValue .s1_1 bytes;
      -152.5 ≤ v.numeric ∧ v.numeric ≤ 152.5 ∧ (v.frac.toNat < 10 → -127.9 ≤ v.numeric ∧ v.numeric ≤ 127.9)) ∧
    (let v := decodeValue .u2_0 bytes;
      0 ≤ v.numeric ∧ v.numeric ≤ 65535) ∧
    (let v := decodeValue .u2_1 bytes;
      0 ≤ v.numeric ∧ v.numeric ≤ 65560.5 ∧ (v.frac.toNat < 10 → v.numeric ≤ 65535.9)) ∧
    (let v := decodeValue .u2_2 bytes;
      0 ≤ v.numeric ∧ v.numeric ≤ 65537.55 ∧ (v.frac.toNat < 100 → v.numeric ≤ 65535.99)) ∧
    (let v := decodeValue .u4_0 bytes;
      0 ≤ v.numeric ∧ v.numeric ≤ 4294967295)

/-- 40_codec R64, R66: an ENCODE in range answers width(fmt) bytes: M little-endian with the sign flag OR'd into the
last of them, then F where fd > 0; no component is written, in READY or in FAULT. -/
def Obligations.EncodePacksBytes : Prop :=
  ∀ (fmt : Fmt) (num : Numerator) (den : Denominator) (s : State), den ≠ 0 → ¬OutOfRange fmt num den →
    ∃ bs, exec (.encode fmt num den) s = .next (s.answered .ok (.bytes bs)) ∧ bs.length = fmt.width ∧
      (∀ k < fmt.ib, (bs.getD k 0).toNat =
        (integerPart num den >>> (8 * k)) &&& 0xFF |||
          (if k = fmt.ib - 1 ∧ fmt.signed = true ∧ num.toInt < 0 then 0x80 else 0)) ∧
      (0 < fmt.fd.val → (bs.getD fmt.ib 0).toNat = fractionPart fmt num den)

/-- 40_codec R65, R67: the four cases that fail with ENCODING_RANGE, the state unchanged, the fourth possible only for
fd = 3. That `exec` of an encode term with DEN = 0, which no pair decodes to, answers ILLEGAL_COMMAND is the model's
choice (log entry 7, DEDUCED). -/
def Obligations.EncodeFailsOutOfRange : Prop :=
  ∀ (fmt : Fmt) (num : Numerator) (den : Denominator) (s : State),
    (den ≠ 0 → OutOfRange fmt num den →
      exec (.encode fmt num den) s = .next (s.answered .encodingRange .empty)) ∧
    (den ≠ 0 → 256 ≤ fractionPart fmt num den → fmt.fd.val = 3) ∧
    exec (.encode fmt num 0) s = .next (s.answered .illegalCommand .empty)

/-- 40_codec R69, the round trip: what DECODE gives of the bytes ENCODE answered for q. -/
def Obligations.DecodeAfterEncode : Prop :=
  ∀ (fmt : Fmt) (num : Numerator) (den : Denominator) (s t : State) (b : List Byte),
    exec (.encode fmt num den) s = .next t → t.lastResponse = some ⟨.ok, .bytes b⟩ →
    ∃ v, exec (.decode fmt b) t = .next (t.answered .ok (.value v)) ∧
      (let q := encodedNumber num den
       let ulp : ℚ := 1 / 10 ^ fmt.fd.val
       v.mag.toNat = integerPart num den ∧ v.frac.toNat = fractionPart fmt num den ∧
       (v.mag.toNat + v.frac.toNat / 10 ^ fmt.fd.val : ℚ) = ⌊|q| * 10 ^ fmt.fd.val⌋ / 10 ^ fmt.fd.val ∧
       (v.rawSign = true ↔ fmt.signed = true ∧ q < 0) ∧
       |q| - ulp < |v.numeric| ∧ |v.numeric| ≤ |q| ∧
       (v.numeric = 0 ∨ (v.numeric < 0 ∧ q < 0) ∨ (0 < v.numeric ∧ 0 < q)) ∧
       (v.numeric = q ↔ ∃ z : ℤ, q * 10 ^ fmt.fd.val = z))

/-- 40_codec R69, the converse: bytes whose fraction is in range and that are not a negative zero are the encoding of
the number they decode to. -/
def Obligations.EncodeAfterDecode : Prop :=
  ∀ (fmt : Fmt) (b : List Byte) (num : Numerator) (den : Denominator) (s : State),
    b.length = fmt.width → den ≠ 0 →
    (let v := decodeValue fmt b
     v.frac.toNat < min 256 (10 ^ fmt.fd.val) → ¬(v.rawSign = true ∧ v.mag = 0 ∧ v.frac = 0) →
     encodedNumber num den = v.numeric →
     exec (.encode fmt num den) s = .next (s.answered .ok (.bytes b)))

/-- 10_state R15, 40_codec R63, R67: DECODE and ENCODE neither read nor write a component of the block. -/
def Obligations.CodecIgnoresState : Prop :=
  ∀ (i : Instr) (s s' t : State),
    (∃ fmt bytes, i = .decode fmt bytes) ∨ (∃ fmt num den, i = .encode fmt num den) → exec i s = .next t →
    s.SameBlock t ∧ t.inbox = s.inbox ∧ ∃ r, t.outbox = s.outbox ++ [r] ∧
      exec i s' = .next { s' with outbox := s'.outbox ++ [r] }

/-- 30_encoding R53: the fields of a packed VALUE; a decoded one has raw_sign 0 where its format is unsigned and frac 0
where fd = 0. -/
def Obligations.ValuePacking : Prop :=
  (∀ (fmt : Fmt) (bytes : List Byte),
    (fmt.signed = false → (decodeValue fmt bytes).rawSign = false) ∧
    (fmt.fd.val = 0 → (decodeValue fmt bytes).frac = 0) ∧
    (decodeValue fmt bytes).signed = fmt.signed ∧ (decodeValue fmt bytes).fd = fmt.fd) ∧
  ∀ v : Value,
    v.pack.extractLsb' 0 32 = v.mag ∧ v.pack.extractLsb' 32 8 = v.frac ∧
    (v.pack.extractLsb' 40 2).toNat = v.fd.val ∧
    v.pack.getLsbD 42 = v.signed ∧ v.pack.getLsbD 43 = v.rawSign ∧
    (v.pack.getLsbD 44 = true ↔ v.numeric < 0) ∧ v.pack.extractLsb' 45 19 = 0

/-- 30_encoding R54: the wire codes of VARIANT, TIER and UNIT items. -/
def Obligations.ItemCodes : Prop :=
  (∀ (t : TableId) (v : Variant), (variantWire t v).extractLsb' 0 8 = v.code ∧
    ((variantWire t v).extractLsb' 8 2).toNat = t.code.toNat) ∧
  ([Tier.good, .acceptable, .substandard, .poor, .bad, .veryBad, .noTier].map fun t => t.code.toNat) =
    [0, 1, 2, 3, 4, 5, 7] ∧
  (∀ t : Tier, t.code ≠ 6) ∧ SensorKind.ppd42.code = 1 ∧ SensorKind.sds011.code = 2

/-! ### The frame reader -/

/-- 41_frame R76: LOAD installs its bytes, in READY and in FAULT. That `exec` of a load term with DATA of another
length, which no pair decodes to, answers ILLEGAL_COMMAND is the model's choice (log entry 7, DEDUCED). -/
def Obligations.LoadInstallsFrame : Prop :=
  ∀ (len : BitVec 8) (bytes : List Byte) (s : State),
    (bytes.length = len.toNat → ∃ t, exec (.load len bytes) s = .next t ∧
      t.frame = bytes ∧ t.FrameHolds ∧ (∀ a, t.mem.byte a = bytes[a]?) ∧ t.len = len ∧ t.cur = 0 ∧
      t.rstate = .ready ∧ t.err = .ok ∧ statusWord t = len.setWidth 32 ∧
      t.inbox = s.inbox ∧ t.outbox = s.outbox ++ [⟨.ok, .empty⟩]) ∧
    (bytes.length ≠ len.toNat → exec (.load len bytes) s = .next (s.answered .illegalCommand .empty))

/-- 41_frame R78: READ_SINGLE decodes one value at the cursor, or underruns; in FAULT it is FRAME_ABORTED. -/
def Obligations.ReadSingleCommand : Prop :=
  ∀ (fmt : Fmt) (s : State), s.Inv →
    exec (.readSingle fmt) s = .next (
      if s.rstate = .fault then s.answered .frameAborted .empty
      else if s.len.toNat < s.cur.toNat + fmt.width then s.failed .bufferUnderrun
      else s.afterRead fmt.width (.value (s.fieldAt fmt 0)))

/-- 41_frame R79: READ_ENUM looks one byte up in its table: BUFFER_UNDERRUN before UNKNOWN_VARIANT, and the FAULT gate
before both. -/
def Obligations.ReadEnumCommand : Prop :=
  ∀ (table : TableId) (s : State), s.Inv →
    exec (.readEnum table) s = .next (
      if s.rstate = .fault then s.answered .frameAborted .empty
      else if s.cur = s.len then s.failed .bufferUnderrun
      else match tableFor hardware table (s.byteAt 0) with
        | none => s.failed .unknownVariant
        | some v => s.afterRead 1 (.variant table v))

/-- 42_unpack R93: VALIDITY_TABLE, as READ_ENUM VALIDITY shows it. -/
def Obligations.ValidityLookup : Prop :=
  ∀ s : State, s.Inv → s.rstate = .ready → s.cur.toNat < s.len.toNat →
    (s.byteAt 0 = 0 → exec (.readEnum .validity) s = .next (s.afterRead 1 (.variant .validity ⟨0, "INVALID"⟩))) ∧
    (s.byteAt 0 = 1 → exec (.readEnum .validity) s = .next (s.afterRead 1 (.variant .validity ⟨1, "VALID"⟩))) ∧
    (2 ≤ (s.byteAt 0).toNat → exec (.readEnum .validity) s = .next (s.failed .unknownVariant))

/-- 41_frame R80 to R82, 20_memory R32: READ_STRIPED pairs integer sub-block i with fraction byte i, relative to the
cursor, for every count, 0 among them. -/
def Obligations.ReadStripedCommand : Prop :=
  ∀ (fmt : Fmt) (count : BitVec 8) (s : State), s.Inv → ∃ vs : List Value,
    vs.length = count.toNat ∧
    (s.cur.toNat + count.toNat * fmt.width ≤ s.len.toNat → ∀ i < count.toNat,
      vs[i]? = some (decodeValue fmt (s.bytesAt (i * fmt.ib) fmt.ib ++ [s.byteAt (count.toNat * fmt.ib + i)]))) ∧
    exec (.readStriped fmt count) s = .next (
      if s.rstate = .fault then s.answered .frameAborted .empty
      else if s.len.toNat < s.cur.toNat + count.toNat * fmt.width then s.failed .bufferUnderrun
      else s.afterRead (count.toNat * fmt.width) (.values vs))

/-- 41_frame R83: READ_STRIPED over a striped region gives the values of count READ_SINGLEs over its row-major
rearrangement, and both advance the cursor alike. -/
def Obligations.StripedIsRowMajor : Prop :=
  ∀ (fmt : Fmt) (count : BitVec 8) (s s' : State), s.Inv → s'.Inv → s.rstate = .ready → s'.rstate = .ready →
    s.cur.toNat + count.toNat * fmt.width ≤ s.len.toNat →
    s'.cur.toNat + count.toNat * fmt.width ≤ s'.len.toNat →
    s'.bytesAt 0 (count.toNat * fmt.width) =
      rowMajor fmt count.toNat (s.bytesAt 0 (count.toNat * fmt.width)) →
    ∃ vs : List Value,
      exec (.readStriped fmt count) s = .next (s.afterRead (count.toNat * fmt.width) (.values vs)) ∧
      Host.Core.run core count.toNat (s'.offers (List.replicate count.toNat (.readSingle fmt))) =
        .next { s' with
          cur := s'.cur + BitVec.ofNat 8 (count.toNat * fmt.width)
          outbox := s'.outbox ++ vs.map fun v => ⟨.ok, .value v⟩ }

/-- 41_frame R84, 10_state R22: QUERY, its word; it answers the STATUS word and writes nothing, in READY and in
FAULT. -/
def Obligations.QueryStatus : Prop :=
  decode ⟨0x00000008, .bytes []⟩ = .instr .query ∧
  ∀ s : State, ∃ w : BitVec 32, exec .query s = .next (s.answered .ok (.status w)) ∧
    w.extractLsb' 0 8 = s.len ∧ w.extractLsb' 8 8 = s.cur ∧ w.extractLsb' 16 4 = s.err.code ∧
    (w.getLsbD 20 = true ↔ s.rstate = .fault) ∧ w.extractLsb' 21 11 = 0

/-- 41_frame R74, 60_exceptions R112: in FAULT every frame command is FRAME_ABORTED and changes nothing, ERR
included. -/
def Obligations.FaultGate : Prop :=
  ∀ (i : Instr) (w : Nat) (s : State), i.frameWidth = some w → s.rstate = .fault →
    exec i s = .next (s.answered .frameAborted .empty)

/-- 41_frame R73, R75, 20_memory R30: the frame of the frame commands. FRAME, LEN and the host's events are unchanged; one
response is given; on success the cursor alone moves, by the command's width; on failure it does not move. -/
def Obligations.FrameCommandsFrame : Prop :=
  ∀ (i : Instr) (w : Nat) (s t : State), i.frameWidth = some w → exec i s = .next t →
    t.mem = s.mem ∧ (∀ a, t.mem.byte a = s.mem.byte a) ∧ t.len = s.len ∧ t.inbox = s.inbox ∧
    ∃ r, t.outbox = s.outbox ++ [r] ∧
      (r.status = .ok → t.cur = s.cur + BitVec.ofNat 8 w ∧ t.rstate = s.rstate ∧ t.err = s.err) ∧
      (r.status ≠ .ok → t.cur = s.cur)

/-- 10_state R14, 20_memory R30: no command but LOAD changes a byte of FRAME or LEN. -/
def Obligations.OnlyLoadWritesFrame : Prop :=
  ∀ (i : Instr) (s t : State), (∀ len bytes, i ≠ .load len bytes) → exec i s = .next t →
    t.mem = s.mem ∧ (∀ a, t.mem.byte a = s.mem.byte a) ∧ t.len = s.len

/-- 10_state R17: no command moves CUR backward except LOAD. -/
def Obligations.CursorOnlyAdvances : Prop :=
  ∀ (i : Instr) (s t : State), s.Inv → (∀ len bytes, i ≠ .load len bytes) → exec i s = .next t →
    s.cur.toNat ≤ t.cur.toNat ∧ t.cur.toNat ≤ t.len.toNat

/-- 41_frame R73, R86: a frame command of width w reads only the w bytes at the cursor: two states that agree on those
give the same response and the same reader state. -/
def Obligations.FrameCommandReadsItsRange : Prop :=
  ∀ (i : Instr) (w : Nat) (s s' : State), i.frameWidth = some w → s.Inv → s'.Inv → s.rstate = s'.rstate →
    s.err = s'.err → s.cur.toNat + w ≤ s.len.toNat → s'.cur.toNat + w ≤ s'.len.toNat →
    s.bytesAt 0 w = s'.bytesAt 0 w →
    ∃ t t', exec i s = .next t ∧ exec i s' = .next t' ∧ t.lastResponse = t'.lastResponse ∧
      t.rstate = t'.rstate ∧ t.err = t'.err

/-- 41_frame R86: frame commands that all succeed advance the cursor by the sum of their widths, so each starts where
the one before it ended. -/
def Obligations.SuccessfulReadsAreConsecutive : Prop :=
  ∀ (is : List Instr) (s t : State), s.Inv → (∀ i ∈ is, i.frameWidth.isSome = true) →
    Host.Core.run core is.length (s.offers is) = .next t → (∀ r ∈ s.since t, r.status = .ok) →
    t.cur.toNat = s.cur.toNat + (is.map fun i => i.frameWidth.getD 0).sum ∧
      t.cur.toNat ≤ t.len.toNat ∧ t.mem = s.mem ∧ t.len = s.len

/-- 20_memory R36, 10_state R26: after a LOAD nothing of the past is left: from any two states, a LOAD and any commands
after it give the same responses and end in the same block state. -/
def Obligations.LoadErasesHistory : Prop :=
  ∀ (len : BitVec 8) (bytes : List Byte) (is : List Instr) (s s' t t' : State), bytes.length = len.toNat →
    Host.Core.run core (is.length + 1) (s.offers (.load len bytes :: is)) = .next t →
    Host.Core.run core (is.length + 1) (s'.offers (.load len bytes :: is)) = .next t' →
    s.since t = s'.since t' ∧ t.SameBlock t'

/-! ### Errors -/

/-- 60_exceptions R108: what an error changes, whatever pair was offered. -/
def Obligations.ErrorEffect : Prop :=
  ∀ (s t : State) (c : Command) (rest : List HostEvent) (r : Response), s.inbox = .offer c :: rest →
    step s = .next t → t.lastResponse = some r → r.status ≠ .ok →
    r.payload = .empty ∧ t.inbox = rest ∧ t.outbox = s.outbox ++ [r] ∧
    (if r.status ∈ [Err.bufferUnderrun, .unknownVariant, .noParticleSensor, .aqiTierUndefined] then
      (∃ i, decode c = .instr i ∧ i.frameWidth.isSome = true) ∧ s.rstate = .ready ∧
        t.mem = s.mem ∧ t.len = s.len ∧ t.cur = s.cur ∧ t.rstate = .fault ∧ t.err = r.status
    else s.SameBlock t)

/-- 60_exceptions R106: the errors each command raises, under this hardware's AQI_OVER_POLICY; a well-formed command is
never ILLEGAL_COMMAND. -/
def Obligations.ErrorsOfEachCommand : Prop :=
  ∀ (i : Instr) (s t : State) (r : Response), i.wf = true → exec i s = .next t → t.lastResponse = some r →
    r.status ∈ Err.ok :: errorsOf i

/-! ### The unpacker -/

/-- 42_unpack R96: UNPACK.AIR, its word, its record and its failures. -/
def Obligations.UnpackAirCommand : Prop :=
  decode ⟨0x00000007, .bytes []⟩ = .instr .unpackAir ∧
  ∀ s : State, s.Inv →
    exec .unpackAir s = .next (
      if s.rstate = .fault then s.answered .frameAborted .empty
      else if s.len.toNat < s.cur.toNat + 12 then s.failed .bufferUnderrun
      else s.afterRead 12 (.record [(.tC, .value (s.fieldAt .s1_1 0)), (.pPa, .value (s.fieldAt .u4_0 2)),
        (.hPc, .value (s.fieldAt .u1_2 6)), (.gOhm, .value (s.fieldAt .u4_0 8))]))

/-- 42_unpack R97, R91 under AQI_OVER_POLICY = NONE: UNPACK.AIRQUALITY, its word, its record and its failures. -/
def Obligations.UnpackAirQualityCommand : Prop :=
  decode ⟨0x00010007, .bytes []⟩ = .instr .unpackAirQuality ∧
  ∀ s : State, s.Inv →
    exec .unpackAirQuality s = .next (
      if s.rstate = .fault then s.answered .frameAborted .empty
      else if s.len.toNat < s.cur.toNat + 10 then s.failed .bufferUnderrun
      else match hardware.accuracy (s.byteAt 9) with
        | none => s.failed .unknownVariant
        | some acc => s.afterRead 10 (.record [(.aqi, .value (s.fieldAt .u2_1 0)),
            (.aqiTier, .tier ((tierOf (s.fieldAt .u2_1 0)).getD .noTier)), (.co2e, .value (s.fieldAt .u2_1 3)),
            (.bVoc, .value (s.fieldAt .u2_2 6)), (.accuracy, .variant .accuracy acc)]))

/-- 42_unpack R91, R97, 60_exceptions R110: UNPACK.AIRQUALITY under each configuration: an AQI above 499 is tier NONE,
tier VERY_BAD or AQI_TIER_UNDEFINED by the policy, the last right after the AQI field and before any other; this
hardware's policy is NONE. -/
def Obligations.AirQualityEachPolicy : Prop :=
  (hardware.aqiOver = .none ∧ Tier.noTier.code = 7 ∧ Tier.veryBad.code = 5) ∧
  ∀ (cfg : Config) (s : State), s.Inv → s.rstate = .ready → s.cur.toNat + 3 ≤ s.len.toNat →
    499 < (s.fieldAt .u2_1 0).numeric →
    (cfg.aqiOver = .error → unpackAirQualityWith cfg s = .next (s.failed .aqiTierUndefined)) ∧
    (cfg.aqiOver ≠ .error → s.cur.toNat + 10 ≤ s.len.toNat →
      ∀ acc, cfg.accuracy (s.byteAt 9) = some acc →
        unpackAirQualityWith cfg s = .next (s.afterRead 10 (.record [(.aqi, .value (s.fieldAt .u2_1 0)),
          (.aqiTier, .tier (if cfg.aqiOver = .clamp then .veryBad else .noTier)),
          (.co2e, .value (s.fieldAt .u2_1 3)), (.bVoc, .value (s.fieldAt .u2_2 6)),
          (.accuracy, .variant .accuracy acc)])))

/-- 00_scope R5, R6, 42_unpack R92: the commands that look a byte up complete under every configuration, whatever its
tables and units hold, when the table has a variant for the byte (and, for AQI above 499, the policy gives a tier). -/
def Obligations.CompletesUnderEachTable : Prop :=
  ∀ (cfg : Config) (s : State) (v : Variant), s.Inv → s.rstate = .ready →
    (∀ table, s.cur.toNat + 1 ≤ s.len.toNat → tableFor cfg table (s.byteAt 0) = some v →
      readEnumWith cfg table s = .next (s.afterRead 1 (.variant table v))) ∧
    (∀ tier, s.cur.toNat + 10 ≤ s.len.toNat → cfg.accuracy (s.byteAt 9) = some v →
      tierUnder cfg.aqiOver (s.fieldAt .u2_1 0) = some tier →
      unpackAirQualityWith cfg s = .next (s.afterRead 10 (.record [(.aqi, .value (s.fieldAt .u2_1 0)),
        (.aqiTier, .tier tier), (.co2e, .value (s.fieldAt .u2_1 3)), (.bVoc, .value (s.fieldAt .u2_2 6)),
        (.accuracy, .variant .accuracy v)]))) ∧
    (s.cur.toNat + 18 ≤ s.len.toNat → cfg.stability (s.byteAt 17) = some v →
      unpackSoundWith cfg s = .next (s.afterRead 18 (.record [(.spl, .value (s.fieldAt .u1_1 0)),
        (.splBands, .values ((List.range 6).map fun i => decodeValue .u1_1 [s.byteAt (2 + i), s.byteAt (8 + i)])),
        (.peakAmplitude, .value (s.fieldAt .u2_2 14)), (.stability, .variant .stability v)]))) ∧
    (∀ kind, kind ≠ .none → s.cur.toNat + 6 ≤ s.len.toNat → cfg.validity (s.byteAt 5) = some v →
      unpackParticleWith cfg kind s = .next (s.afterRead 6 (.record [(.dutyCycle, .value (s.fieldAt .u1_2 0)),
        (.concentration, .value (s.fieldAt .u2_2 2)), (.unit, .unit kind (cfg.unitOfKind kind)),
        (.validity, .variant .validity v)])))

/-- 42_unpack R90: the tier is that of the smallest threshold ≥ numeric(v), compared exactly; the tiers' codes. -/
def Obligations.AqiTierThresholds : Prop :=
  (Tier.good.code = 0 ∧ Tier.acceptable.code = 1 ∧ Tier.substandard.code = 2 ∧ Tier.poor.code = 3 ∧
    Tier.bad.code = 4 ∧ Tier.veryBad.code = 5) ∧
  ∀ v : Value, v.rawSign = false →
    tierOf v =
      if v.numeric ≤ 49 then some .good
      else if v.numeric ≤ 99 then some .acceptable
      else if v.numeric ≤ 149 then some .substandard
      else if v.numeric ≤ 199 then some .poor
      else if v.numeric ≤ 299 then some .bad
      else if v.numeric ≤ 499 then some .veryBad
      else none

/-- 42_unpack R98: UNPACK.LIGHT, its word, its record and its failures. -/
def Obligations.UnpackLightCommand : Prop :=
  decode ⟨0x00020007, .bytes []⟩ = .instr .unpackLight ∧
  ∀ s : State, s.Inv →
    exec .unpackLight s = .next (
      if s.rstate = .fault then s.answered .frameAborted .empty
      else if s.len.toNat < s.cur.toNat + 5 then s.failed .bufferUnderrun
      else s.afterRead 5 (.record [(.illuminance, .value (s.fieldAt .u2_2 0)), (.white, .value (s.fieldAt .u2_0 3))]))

/-- 42_unpack R99: UNPACK.SOUND, its word, its record and its failures; band i pairs the bytes at offsets 2 + i and
8 + i. -/
def Obligations.UnpackSoundCommand : Prop :=
  decode ⟨0x00030007, .bytes []⟩ = .instr .unpackSound ∧
  ∀ s : State, s.Inv →
    exec .unpackSound s = .next (
      if s.rstate = .fault then s.answered .frameAborted .empty
      else if s.len.toNat < s.cur.toNat + 18 then s.failed .bufferUnderrun
      else match hardware.stability (s.byteAt 17) with
        | none => s.failed .unknownVariant
        | some st => s.afterRead 18 (.record [(.spl, .value (s.fieldAt .u1_1 0)),
            (.splBands, .values ((List.range 6).map fun i =>
              decodeValue .u1_1 [s.byteAt (2 + i), s.byteAt (8 + i)])),
            (.peakAmplitude, .value (s.fieldAt .u2_2 14)), (.stability, .variant .stability st)]))

/-- 42_unpack R100, R101, 60_exceptions R110: UNPACK.PARTICLE, its words, its record and its failures in their order. -/
def Obligations.UnpackParticleCommand : Prop :=
  decode ⟨0x00040007, .bytes []⟩ = .instr (.unpackParticle .none) ∧
  decode ⟨0x01040007, .bytes []⟩ = .instr (.unpackParticle .ppd42) ∧
  decode ⟨0x02040007, .bytes []⟩ = .instr (.unpackParticle .sds011) ∧
  ∀ (kind : SensorKind) (s : State), s.Inv →
    exec (.unpackParticle kind) s = .next (
      if s.rstate = .fault then s.answered .frameAborted .empty
      else if kind = .none then s.failed .noParticleSensor
      else if s.len.toNat < s.cur.toNat + 6 then s.failed .bufferUnderrun
      else match hardware.validity (s.byteAt 5) with
        | none => s.failed .unknownVariant
        | some vl => s.afterRead 6 (.record [(.dutyCycle, .value (s.fieldAt .u1_2 0)),
            (.concentration, .value (s.fieldAt .u2_2 2)), (.unit, .unit kind (hardware.unitOfKind kind)),
            (.validity, .variant .validity vl)]))

/-- 42_unpack R103: an UNPACK that succeeds gives the items that its READ commands give from the same state, in order,
and both end with the same block state, the cursor past the category's size. -/
def Obligations.UnpackIsItsReads : Prop :=
  ∀ (cat : Category) (kind : SensorKind) (s t : State) (items : List (FieldName × Item)), s.Inv →
    exec (categoryUnpack kind cat) s = .next t → t.lastResponse = some ⟨.ok, .record items⟩ →
    t.cur.toNat = s.cur.toNat + cat.size ∧
    ∃ u, Host.Core.run core (categoryReads cat).length (s.offers (categoryReads cat)) = .next u ∧
      s.since u = (items.filterMap fun e => e.2.readPayload).map (fun p => ⟨.ok, p⟩) ∧ t.SameBlock u

/-- 42_unpack R102: each category's size is the sum of its field widths, and an UNPACK with an enabled sensor underruns
exactly when fewer bytes than that remain. -/
def Obligations.UnpackUnderrunsExactly : Prop :=
  (Category.air.size = Fmt.s1_1.width + Fmt.u4_0.width + Fmt.u1_2.width + Fmt.u4_0.width ∧
   Category.airQuality.size = Fmt.u2_1.width + Fmt.u2_1.width + Fmt.u2_2.width + 1 ∧
   Category.light.size = Fmt.u2_2.width + Fmt.u2_0.width ∧
   Category.sound.size = Fmt.u1_1.width + 6 * Fmt.u1_1.width + Fmt.u2_2.width + 1 ∧
   Category.particle.size = Fmt.u1_2.width + Fmt.u2_2.width + 1) ∧
  ∀ (cat : Category) (kind : SensorKind) (s t : State) (r : Response), s.Inv → s.rstate = .ready → kind ≠ .none →
    exec (categoryUnpack kind cat) s = .next t → t.lastResponse = some r →
    (r.status = .bufferUnderrun ↔ s.len.toNat < s.cur.toNat + cat.size) ∧
    (r.status = .unknownVariant → s.cur.toNat + cat.size ≤ s.len.toNat)
end

