-- ==== Sys2Proof/Laws/Encoding.lean ====
section
/-! SUPPORT. The fields of a word made from fields and the word of a word's fields (30_encoding R43), and the codes of
the operands both ways. -/

namespace Sys2Proof

theorem toNat_append_mul {m n : Nat} (x : BitVec m) (y : BitVec n) : (x ++ y).toNat = x.toNat * 2 ^ n + y.toNat := by
  rw [BitVec.toNat_append, ← Nat.shiftLeft_add_eq_or_of_lt y.isLt, Nat.shiftLeft_eq]

theorem extract_toNat {n : Nat} (x : BitVec n) (i k : Nat) : (x.extractLsb' i k).toNat = x.toNat / 2 ^ i % 2 ^ k := by
  rw [BitVec.extractLsb'_toNat, Nat.shiftRight_eq_div_pow]

theorem ofFields_toNat (op : BitVec 4) (f : BitVec 5) (a b : BitVec 8) :
    (CmdWord.ofFields op f a b).toNat = b.toNat * 2 ^ 24 + a.toNat * 2 ^ 16 + f.toNat * 2 ^ 8 + op.toNat := by
  have : (CmdWord.ofFields op f a b).toNat = (b ++ a ++ 0#3 ++ f ++ 0#4 ++ op).toNat := rfl
  rw [this]
  simp only [toNat_append_mul, BitVec.toNat_zero]
  omega

section Fields
variable (op : BitVec 4) (f : BitVec 5) (a b : BitVec 8)

@[simp] theorem ofFields_op : (CmdWord.ofFields op f a b).op = op := by
  apply BitVec.eq_of_toNat_eq
  have := op.isLt; have := f.isLt
  rw [CmdWord.op, extract_toNat, ofFields_toNat]; omega

@[simp] theorem ofFields_rsv0 : (CmdWord.ofFields op f a b).rsv0 = 0 := by
  apply BitVec.eq_of_toNat_eq
  have := op.isLt; have := f.isLt
  rw [CmdWord.rsv0, extract_toNat, ofFields_toNat]; change _ = 0; omega

@[simp] theorem ofFields_rsv1 : (CmdWord.ofFields op f a b).rsv1 = 0 := by
  apply BitVec.eq_of_toNat_eq
  have := op.isLt; have := f.isLt
  rw [CmdWord.rsv1, extract_toNat, ofFields_toNat]; change _ = 0; omega

@[simp] theorem ofFields_fmtBits : (CmdWord.ofFields op f a b).fmtBits = f := by
  apply BitVec.eq_of_toNat_eq
  have := op.isLt; have := f.isLt
  rw [CmdWord.fmtBits, extract_toNat, ofFields_toNat]; omega

@[simp] theorem ofFields_a : (CmdWord.ofFields op f a b).a = a := by
  apply BitVec.eq_of_toNat_eq
  have := op.isLt; have := f.isLt; have := a.isLt
  rw [CmdWord.a, extract_toNat, ofFields_toNat]; omega

@[simp] theorem ofFields_b : (CmdWord.ofFields op f a b).b = b := by
  apply BitVec.eq_of_toNat_eq
  have := op.isLt; have := f.isLt; have := a.isLt; have := b.isLt
  rw [CmdWord.b, extract_toNat, ofFields_toNat]; omega

end Fields

/-- The format that five FMT bits encode. -/
def fmtOfBits (f : BitVec 5) : Fmt :=
  ⟨f.extractLsb' 0 1 == 1#1, (f.extractLsb' 1 2).toFin, (f.extractLsb' 3 2).toFin⟩

theorem fmt_eq_ofBits (w : CmdWord) : w.fmt = fmtOfBits w.fmtBits := by
  have h0 : w.s = w.fmtBits.extractLsb' 0 1 := by
    apply BitVec.eq_of_toNat_eq; rw [CmdWord.s, CmdWord.fmtBits]; simp only [extract_toNat]; omega
  have h1 : w.ibm1 = w.fmtBits.extractLsb' 1 2 := by
    apply BitVec.eq_of_toNat_eq; rw [CmdWord.ibm1, CmdWord.fmtBits]; simp only [extract_toNat]; omega
  have h2 : w.fd = w.fmtBits.extractLsb' 3 2 := by
    apply BitVec.eq_of_toNat_eq; rw [CmdWord.fd, CmdWord.fmtBits]; simp only [extract_toNat]; omega
  rw [CmdWord.fmt, h0, h1, h2, fmtOfBits]

/-- The 32 formats and the 32 values of FMT are in one-to-one correspondence (30_encoding R45). -/
theorem fmtOfBits_bits (f : Fmt) : fmtOfBits f.bits = f := by
  obtain ⟨s, i, d⟩ := f
  revert s i d; decide

theorem bits_fmtOfBits (b : BitVec 5) : (fmtOfBits b).bits = b := by
  revert b; decide

@[simp] theorem ofFields_fmt (op : BitVec 4) (f : Fmt) (a b : BitVec 8) :
    (CmdWord.ofFields op f.bits a b).fmt = f := by
  rw [fmt_eq_ofBits, ofFields_fmtBits, fmtOfBits_bits]

@[simp] theorem fmt_bits (w : CmdWord) : w.fmt.bits = w.fmtBits := by
  rw [fmt_eq_ofBits, bits_fmtOfBits]

/-- A word whose reserved fields are 0 is the word of its other fields. -/
theorem ofFields_self {w : CmdWord} (h0 : w.rsv0 = 0) (h1 : w.rsv1 = 0) :
    CmdWord.ofFields w.op w.fmtBits w.a w.b = w := by
  apply BitVec.eq_of_toNat_eq
  have h0 : w.rsv0.toNat = 0 := congrArg BitVec.toNat h0
  have h1 : w.rsv1.toNat = 0 := congrArg BitVec.toNat h1
  have := w.isLt
  rw [CmdWord.rsv0, extract_toNat] at h0
  rw [CmdWord.rsv1, extract_toNat] at h1
  rw [ofFields_toNat, CmdWord.op, CmdWord.fmtBits, CmdWord.a, CmdWord.b]
  simp only [extract_toNat]; omega

@[simp] theorem tableId_ofCode_code (t : TableId) : TableId.ofCode? t.code = some t := by cases t <;> decide

@[simp] theorem sensorKind_ofCode_code (k : SensorKind) : SensorKind.ofCode? k.code = some k := by cases k <;> decide

theorem tableId_code_ofCode {a : BitVec 8} {t : TableId} (h : TableId.ofCode? a = some t) : t.code = a := by
  revert h t; revert a; decide

theorem sensorKind_code_ofCode {b : BitVec 8} {k : SensorKind} (h : SensorKind.ofCode? b = some k) : k.code = b := by
  revert h k; revert b; decide

end Sys2Proof
end

