-- ==== Sys2Proof/Laws/Memory.lean ====
section
/-! SUPPORT. The frame buffer: what LOAD installs, that it keeps the canonical form, and what a read gives. -/

namespace Sys2Proof.Machine

theorem placeFrom_fst (a : Nat) (bs : List Byte) :
    (Memory.placeFrom a bs).map Prod.fst = List.range' a bs.length := by
  induction bs generalizing a with
  | nil => rfl
  | cons b bs ih => simp [Memory.placeFrom, ih, List.range'_succ]

theorem placeFrom_snd (a : Nat) (bs : List Byte) : (Memory.placeFrom a bs).map Prod.snd = bs := by
  induction bs generalizing a with
  | nil => rfl
  | cons b bs ih => simp [Memory.placeFrom, ih]

/-- An installed frame occupies the addresses 0..len−1. -/
@[simp] theorem ofBytes_fst (bs : List Byte) : (Memory.ofBytes bs).map Prod.fst = List.range bs.length := by
  rw [Memory.ofBytes, placeFrom_fst, List.range_eq_range']

/-- An installed frame holds the loaded bytes. -/
@[simp] theorem ofBytes_snd (bs : List Byte) : (Memory.ofBytes bs).map Prod.snd = bs := placeFrom_snd 0 bs

/-- Cells at 0..n−1, n ≤ 255, are in canonical form. -/
theorem wf_of_fst_range {m : Memory} {n : Nat} (h : m.map Prod.fst = List.range n) (hn : n ≤ 255) : m.wf := by
  refine ⟨h ▸ List.pairwise_lt_range, fun c hc => ?_⟩
  have : c.1 ∈ List.range n := h ▸ List.mem_map_of_mem hc
  have := List.mem_range.1 this
  omega

/-- The one write of the frame buffer keeps the canonical form. -/
theorem ofBytes_wf {bs : List Byte} (h : bs.length ≤ 255) : (Memory.ofBytes bs).wf :=
  wf_of_fst_range (ofBytes_fst bs) h

/-- The frame buffer of a state whose FRAME has LEN bytes is in canonical form. -/
theorem wf_of_frameHolds {s : State} (h : s.FrameHolds) : s.mem.wf :=
  wf_of_fst_range h (by have := s.len.isLt; omega)

/-- The reset frame buffer is in canonical form. -/
theorem reset_mem_wf : State.reset.mem.wf := by decide

theorem byte_of_range' (m : Memory) (a i : Nat) (h : m.map Prod.fst = List.range' a m.length) :
    m.byte (a + i) = (m.map Prod.snd)[i]? := by
  induction m generalizing a i with
  | nil => simp [Memory.byte]
  | cons c m ih =>
    obtain ⟨x, b⟩ := c
    simp only [List.map_cons, List.length_cons, List.range'_succ, List.cons.injEq] at h
    obtain ⟨rfl, h⟩ := h
    cases i with
    | zero => simp [Memory.byte]
    | succ i =>
      have ih' := ih (x + 1) i (by simpa using h)
      have hne : (x + (i + 1) == x) = false := by simp
      simp only [Memory.byte, List.lookup_cons, hne, List.map_cons, List.getElem?_cons_succ] at ih' ⊢
      rw [← ih']; congr 1; omega

/-- The frame has LEN bytes. -/
theorem frame_length {s : State} (h : s.FrameHolds) : s.frame.length = s.len.toNat := by
  have := congrArg List.length h
  simpa [State.frame] using this

/-- Where FRAME has LEN bytes, address a holds byte a of the frame, and an address ≥ LEN holds nothing. -/
theorem byte_eq_frame {s : State} (h : s.FrameHolds) (a : Nat) : s.mem.byte a = s.frame[a]? := by
  have hl : s.mem.length = s.len.toNat := by simpa [State.frame] using frame_length h
  have h' : s.mem.map Prod.fst = List.range' 0 s.mem.length := by
    rw [hl, ← List.range_eq_range']; exact h
  simpa [State.frame] using byte_of_range' s.mem 0 a h'

/-- A read inside the frame gives the frame's bytes. -/
theorem read_eq_slice {s : State} (h : s.FrameHolds) (a n : Nat) (hb : a + n ≤ s.len.toNat) :
    s.mem.read a n = .ok (slice s.frame a n) := by
  induction n generalizing a with
  | zero => simp [Memory.read, slice]
  | succ n ih =>
    have ha : a < s.frame.length := by rw [frame_length h]; omega
    have hs : slice s.frame a (n + 1) = s.frame[a] :: slice s.frame (a + 1) n := by
      rw [slice, slice, List.drop_eq_getElem_cons ha, List.take_succ_cons]
    rw [Memory.read, byte_eq_frame h, List.getElem?_eq_getElem ha, hs]
    simp only [ih (a + 1) (by omega)]

end Sys2Proof.Machine
end

