-- ==== Sys2Proof/Laws/State.lean ====
section
/-! SUPPORT. The state updates, field by field. -/

namespace Sys2Proof.Machine

variable (s : State)

@[simp] theorem setCur_mem (c : BitVec 8) : (s.setCur c).mem = s.mem := rfl
@[simp] theorem setCur_len (c : BitVec 8) : (s.setCur c).len = s.len := rfl
@[simp] theorem setCur_cur (c : BitVec 8) : (s.setCur c).cur = c := rfl
@[simp] theorem setCur_rstate (c : BitVec 8) : (s.setCur c).rstate = s.rstate := rfl
@[simp] theorem setCur_err (c : BitVec 8) : (s.setCur c).err = s.err := rfl
@[simp] theorem setCur_inbox (c : BitVec 8) : (s.setCur c).inbox = s.inbox := rfl
@[simp] theorem setCur_outbox (c : BitVec 8) : (s.setCur c).outbox = s.outbox := rfl

@[simp] theorem answer_mem (e : Err) (p : Payload) : (s.answer e p).mem = s.mem := rfl
@[simp] theorem answer_len (e : Err) (p : Payload) : (s.answer e p).len = s.len := rfl
@[simp] theorem answer_cur (e : Err) (p : Payload) : (s.answer e p).cur = s.cur := rfl
@[simp] theorem answer_rstate (e : Err) (p : Payload) : (s.answer e p).rstate = s.rstate := rfl
@[simp] theorem answer_err (e : Err) (p : Payload) : (s.answer e p).err = s.err := rfl
@[simp] theorem answer_inbox (e : Err) (p : Payload) : (s.answer e p).inbox = s.inbox := rfl
@[simp] theorem answer_outbox (e : Err) (p : Payload) : (s.answer e p).outbox = s.outbox ++ [⟨e, p⟩] := rfl

@[simp] theorem abort_mem (e : Err) : (s.abort e).mem = s.mem := rfl
@[simp] theorem abort_len (e : Err) : (s.abort e).len = s.len := rfl
@[simp] theorem abort_cur (e : Err) : (s.abort e).cur = s.cur := rfl
@[simp] theorem abort_rstate (e : Err) : (s.abort e).rstate = .fault := rfl
@[simp] theorem abort_err (e : Err) : (s.abort e).err = e := rfl
@[simp] theorem abort_inbox (e : Err) : (s.abort e).inbox = s.inbox := rfl
@[simp] theorem abort_outbox (e : Err) : (s.abort e).outbox = s.outbox := rfl

@[simp] theorem install_mem (n : BitVec 8) (bs : List Byte) : (s.install n bs).mem = Memory.ofBytes bs := rfl
@[simp] theorem install_len (n : BitVec 8) (bs : List Byte) : (s.install n bs).len = n := rfl
@[simp] theorem install_cur (n : BitVec 8) (bs : List Byte) : (s.install n bs).cur = 0 := rfl
@[simp] theorem install_rstate (n : BitVec 8) (bs : List Byte) : (s.install n bs).rstate = .ready := rfl
@[simp] theorem install_err (n : BitVec 8) (bs : List Byte) : (s.install n bs).err = .ok := rfl
@[simp] theorem install_inbox (n : BitVec 8) (bs : List Byte) : (s.install n bs).inbox = s.inbox := rfl
@[simp] theorem install_outbox (n : BitVec 8) (bs : List Byte) : (s.install n bs).outbox = s.outbox := rfl

@[simp] theorem applyReset_mem : s.applyReset.mem = [] := rfl
@[simp] theorem applyReset_len : s.applyReset.len = 0 := rfl
@[simp] theorem applyReset_cur : s.applyReset.cur = 0 := rfl
@[simp] theorem applyReset_rstate : s.applyReset.rstate = .ready := rfl
@[simp] theorem applyReset_err : s.applyReset.err = .ok := rfl
@[simp] theorem applyReset_inbox : s.applyReset.inbox = s.inbox := rfl
@[simp] theorem applyReset_outbox : s.applyReset.outbox = s.outbox := rfl

@[simp] theorem withInbox_mem (r : List HostEvent) : (s.withInbox r).mem = s.mem := rfl
@[simp] theorem withInbox_len (r : List HostEvent) : (s.withInbox r).len = s.len := rfl
@[simp] theorem withInbox_cur (r : List HostEvent) : (s.withInbox r).cur = s.cur := rfl
@[simp] theorem withInbox_rstate (r : List HostEvent) : (s.withInbox r).rstate = s.rstate := rfl
@[simp] theorem withInbox_err (r : List HostEvent) : (s.withInbox r).err = s.err := rfl
@[simp] theorem withInbox_inbox (r : List HostEvent) : (s.withInbox r).inbox = r := rfl
@[simp] theorem withInbox_outbox (r : List HostEvent) : (s.withInbox r).outbox = s.outbox := rfl

@[simp] theorem offerNext_mem (c : Command) : (s.offerNext c).mem = s.mem := rfl
@[simp] theorem offerNext_len (c : Command) : (s.offerNext c).len = s.len := rfl
@[simp] theorem offerNext_cur (c : Command) : (s.offerNext c).cur = s.cur := rfl
@[simp] theorem offerNext_rstate (c : Command) : (s.offerNext c).rstate = s.rstate := rfl
@[simp] theorem offerNext_err (c : Command) : (s.offerNext c).err = s.err := rfl
@[simp] theorem offerNext_inbox (c : Command) : (s.offerNext c).inbox = .offer c :: s.inbox := rfl
@[simp] theorem offerNext_outbox (c : Command) : (s.offerNext c).outbox = s.outbox := rfl

/-! Raising an error touches RSTATE and ERR for the aborting errors only, and always answers. -/

@[simp] theorem raise_mem (e : Err) : (s.raise e).mem = s.mem := by
  unfold State.raise; cases e.aborts <;> rfl

@[simp] theorem raise_len (e : Err) : (s.raise e).len = s.len := by
  unfold State.raise; cases e.aborts <;> rfl

@[simp] theorem raise_cur (e : Err) : (s.raise e).cur = s.cur := by
  unfold State.raise; cases e.aborts <;> rfl

@[simp] theorem raise_inbox (e : Err) : (s.raise e).inbox = s.inbox := by
  unfold State.raise; cases e.aborts <;> rfl

@[simp] theorem raise_rstate (e : Err) : (s.raise e).rstate = if e.aborts then .fault else s.rstate := by
  unfold State.raise; cases e.aborts <;> rfl

@[simp] theorem raise_err (e : Err) : (s.raise e).err = if e.aborts then e else s.err := by
  unfold State.raise; cases e.aborts <;> rfl

@[simp] theorem raise_outbox (e : Err) : (s.raise e).outbox = s.outbox ++ [⟨e, .empty⟩] := by
  unfold State.raise; cases e.aborts <;> rfl

/-! A success of a frame command. -/

@[simp] theorem afterRead_mem (w : Nat) (p : Payload) : (s.afterRead w p).mem = s.mem := rfl
@[simp] theorem afterRead_len (w : Nat) (p : Payload) : (s.afterRead w p).len = s.len := rfl
@[simp] theorem afterRead_cur (w : Nat) (p : Payload) : (s.afterRead w p).cur = s.cur + BitVec.ofNat 8 w := rfl
@[simp] theorem afterRead_rstate (w : Nat) (p : Payload) : (s.afterRead w p).rstate = s.rstate := rfl
@[simp] theorem afterRead_err (w : Nat) (p : Payload) : (s.afterRead w p).err = s.err := rfl
@[simp] theorem afterRead_inbox (w : Nat) (p : Payload) : (s.afterRead w p).inbox = s.inbox := rfl
@[simp] theorem afterRead_outbox (w : Nat) (p : Payload) : (s.afterRead w p).outbox = s.outbox ++ [⟨.ok, p⟩] := rfl

/-! FRAME under the updates, and the last response. -/

@[simp] theorem answer_frame (e : Err) (p : Payload) : (s.answer e p).frame = s.frame := rfl

@[simp] theorem setCur_frame (c : BitVec 8) : (s.setCur c).frame = s.frame := rfl

@[simp] theorem withInbox_frame (r : List HostEvent) : (s.withInbox r).frame = s.frame := rfl

@[simp] theorem afterRead_frame (w : Nat) (p : Payload) : (s.afterRead w p).frame = s.frame := rfl

@[simp] theorem raise_frame (e : Err) : (s.raise e).frame = s.frame := by
  unfold State.frame; rw [raise_mem]

@[simp] theorem lastResponse_answer (e : Err) (p : Payload) : (s.answer e p).lastResponse = some ⟨e, p⟩ := by
  unfold State.lastResponse; rw [answer_outbox]; exact List.getLast?_concat

@[simp] theorem lastResponse_afterRead (w : Nat) (p : Payload) :
    (s.afterRead w p).lastResponse = some ⟨.ok, p⟩ := lastResponse_answer _ _ _

@[simp] theorem lastResponse_raise (e : Err) : (s.raise e).lastResponse = some ⟨e, .empty⟩ :=
  lastResponse_answer _ _ _

end Sys2Proof.Machine
end

