-- ==== Sys2Proof/Laws/Reads.lean ====
section
/-! SUPPORT. What the reads at the cursor and a frame command can do. -/

namespace Sys2Proof.Machine

@[simp] theorem bind_ok {α β : Type} (x : α) (c : BitVec 8) (f : α → BitVec 8 → ReadOut β) :
    (ReadOut.ok x c).bind f = f x c := rfl

@[simp] theorem bind_raise {α β : Type} (e : Err) (f : α → BitVec 8 → ReadOut β) :
    (ReadOut.raise e).bind f = .raise e := rfl

@[simp] theorem bind_absent {α β : Type} (a : Nat) (f : α → BitVec 8 → ReadOut β) :
    (ReadOut.absent a : ReadOut α).bind f = .absent a := rfl

/-- Everything a bounds-checked read can do where FRAME has LEN bytes. -/
theorem takeBytes_eq {s : State} (h : s.FrameHolds) (w : Nat) (c : BitVec 8) :
    takeBytes s w c =
      if s.len.toNat < c.toNat + w then .raise .bufferUnderrun
      else .ok (slice s.frame c.toNat w) (c + BitVec.ofNat 8 w) := by
  unfold takeBytes
  split
  · rfl
  · rw [read_eq_slice h _ _ (by omega)]

theorem rd_eq {s : State} (h : s.FrameHolds) (fmt : Fmt) (c : BitVec 8) :
    rd s fmt c =
      if s.len.toNat < c.toNat + fmt.width then .raise .bufferUnderrun
      else .ok (decodeValue fmt (slice s.frame c.toNat fmt.width)) (c + BitVec.ofNat 8 fmt.width) := by
  unfold rd; rw [takeBytes_eq h]; split <;> rfl

theorem rds_eq {s : State} (h : s.FrameHolds) (fmt : Fmt) (n : Nat) (c : BitVec 8) :
    rds s fmt n c =
      if s.len.toNat < c.toNat + n * fmt.width then .raise .bufferUnderrun
      else .ok (stripedValues fmt n (slice s.frame c.toNat (n * fmt.width)))
        (c + BitVec.ofNat 8 (n * fmt.width)) := by
  unfold rds; rw [takeBytes_eq h]; split <;> rfl

theorem slice_one_headD {l : List Byte} {a : Nat} (h : a < l.length) : (slice l a 1).headD 0 = l.getD a 0 := by
  rw [slice, List.drop_eq_getElem_cons h, List.take_succ_cons, List.headD_cons,
    List.getD_eq_getElem?_getD, List.getElem?_eq_getElem h, Option.getD_some]

theorem rde_eq {s : State} (h : s.FrameHolds) (cfg : Config) (t : TableId) (c : BitVec 8) :
    rde cfg s t c =
      if s.len.toNat < c.toNat + 1 then .raise .bufferUnderrun
      else match tableFor cfg t (s.frame.getD c.toNat 0) with
        | none => .raise .unknownVariant
        | some v => .ok v (c + BitVec.ofNat 8 1) := by
  unfold rde; rw [takeBytes_eq h]; split
  · rfl
  · rw [bind_ok, slice_one_headD (by rw [frame_length h]; omega)]
    all_goals cases tableFor cfg t (s.frame.getD c.toNat 0) <;> rfl

/-- Everything a frame command can do when it answers a next state: the gate, a success, or an error. -/
theorem frameCommand_next {s t : State} {body : ReadOut Payload} (h : frameCommand s body = .next t) :
    (s.rstate = .fault ∧ t = s.raise .frameAborted) ∨
    (s.rstate = .ready ∧ ∃ p c, body = .ok p c ∧ t = (s.setCur c).answer .ok p) ∨
    (s.rstate = .ready ∧ ∃ e, body = .raise e ∧ t = s.raise e) := by
  unfold frameCommand at h
  split at h
  · exact .inl ⟨‹_›, by injection h with h; exact h.symm⟩
  · have hr : s.rstate = .ready := by cases hs : s.rstate <;> simp_all
    cases body with
    | ok p c => exact .inr (.inl ⟨hr, p, c, rfl, by injection h with h; exact h.symm⟩)
    | raise e => exact .inr (.inr ⟨hr, e, rfl, by injection h with h; exact h.symm⟩)
    | absent a => cases h

/-- In READY a frame command runs its body. -/
theorem frameCommand_ready {s : State} (h : s.rstate = .ready) (body : ReadOut Payload) :
    frameCommand s body =
      match body with
      | .ok p c => .next ((s.setCur c).answer .ok p)
      | .raise e => .next (s.raise e)
      | .absent a => .fault (.absentByte a) := by
  cases body <;> simp [frameCommand, h]

/-! Offsets past the cursor. -/

/-- A cursor that stays within LEN ≤ 255 does not wrap. -/
theorem cur_add {c l : BitVec 8} {w : Nat} (h : c.toNat + w ≤ l.toNat) :
    (c + BitVec.ofNat 8 w).toNat = c.toNat + w := by
  have := l.isLt
  rw [BitVec.toNat_add, BitVec.toNat_ofNat]; omega

theorem add_ofNat_add_ofNat (c : BitVec 8) (a b : Nat) :
    c + BitVec.ofNat 8 a + BitVec.ofNat 8 b = c + BitVec.ofNat 8 (a + b) := by
  rw [BitVec.add_assoc, BitVec.ofNat_add]

theorem slice_slice (l : List Byte) (a b i n : Nat) (h : i + n ≤ b) :
    slice (slice l a b) i n = slice l (a + i) n := by
  simp only [slice, List.drop_take, List.take_take, List.drop_drop]
  congr 1; omega

/-- Everything `rd` can do at offset i past the cursor. -/
theorem rd_at {s : State} (h : s.FrameHolds) (fmt : Fmt) (i : Nat) (hi : s.cur.toNat + i ≤ s.len.toNat) :
    rd s fmt (s.cur + BitVec.ofNat 8 i) =
      if s.len.toNat < s.cur.toNat + (i + fmt.width) then .raise .bufferUnderrun
      else .ok (s.fieldAt fmt i) (s.cur + BitVec.ofNat 8 (i + fmt.width)) := by
  rw [rd_eq h, cur_add hi, Nat.add_assoc, add_ofNat_add_ofNat]; rfl

/-- Everything `rds` can do at offset i past the cursor. -/
theorem rds_at {s : State} (h : s.FrameHolds) (fmt : Fmt) (n i : Nat) (hi : s.cur.toNat + i ≤ s.len.toNat) :
    rds s fmt n (s.cur + BitVec.ofNat 8 i) =
      if s.len.toNat < s.cur.toNat + (i + n * fmt.width) then .raise .bufferUnderrun
      else .ok (stripedValues fmt n (s.bytesAt i (n * fmt.width)))
        (s.cur + BitVec.ofNat 8 (i + n * fmt.width)) := by
  rw [rds_eq h, cur_add hi, Nat.add_assoc, add_ofNat_add_ofNat]; rfl

/-- Everything `rde` can do at offset i past the cursor. -/
theorem rde_at {s : State} (h : s.FrameHolds) (cfg : Config) (t : TableId) (i : Nat)
    (hi : s.cur.toNat + i ≤ s.len.toNat) :
    rde cfg s t (s.cur + BitVec.ofNat 8 i) =
      if s.len.toNat < s.cur.toNat + (i + 1) then .raise .bufferUnderrun
      else match tableFor cfg t (s.byteAt i) with
        | none => .raise .unknownVariant
        | some v => .ok v (s.cur + BitVec.ofNat 8 (i + 1)) := by
  rw [rde_eq h, cur_add hi, Nat.add_assoc]
  split
  · rfl
  · rw [State.byteAt]
    cases tableFor cfg t (s.frame.getD (s.cur.toNat + i) 0) <;> simp [add_ofNat_add_ofNat]

end Sys2Proof.Machine
end

