-- ==== Sys2Proof/Laws/Frame.lean ====
section
/-! SUPPORT. The frame commands all at once: what a body of total width w can do, and what follows for the command. -/

namespace Sys2Proof.Machine

/-- A read from cursor c that, where it succeeds, advances by w, and that raises only errors that abort. -/
def Advances {α : Type} (r : ReadOut α) (c : BitVec 8) (w : Nat) : Prop :=
  (∃ x, r = .ok x (c + BitVec.ofNat 8 w)) ∨ (∃ e, r = .raise e ∧ e.aborts = true) ∨ ∃ a, r = .absent a

theorem advances_ok {α : Type} (x : α) (c : BitVec 8) : Advances (.ok x c) c 0 := .inl ⟨x, by simp⟩

theorem advances_raise {α : Type} {e : Err} (h : e.aborts = true) (c : BitVec 8) (w : Nat) :
    Advances (.raise e : ReadOut α) c w := .inr (.inl ⟨e, rfl, h⟩)

/-- Reads in sequence advance by the sum of their widths. -/
theorem advances_bind {α β : Type} {r : ReadOut α} {c : BitVec 8} {w w' total : Nat} {f : α → BitVec 8 → ReadOut β}
    (h : Advances r c w) (hf : ∀ x c', Advances (f x c') c' w') (sum : w + w' = total) :
    Advances (r.bind f) c total := by
  subst sum
  rcases h with ⟨x, rfl⟩ | ⟨e, rfl, he⟩ | ⟨a, rfl⟩
  · rcases hf x (c + BitVec.ofNat 8 w) with ⟨y, h⟩ | ⟨e, h, he⟩ | ⟨a, h⟩
    · exact .inl ⟨y, by rw [bind_ok, h, add_ofNat_add_ofNat]⟩
    · exact .inr (.inl ⟨e, by rw [bind_ok, h], he⟩)
    · exact .inr (.inr ⟨a, by rw [bind_ok, h]⟩)
  · exact .inr (.inl ⟨e, rfl, he⟩)
  · exact .inr (.inr ⟨a, rfl⟩)

theorem advances_takeBytes (s : State) (w : Nat) (c : BitVec 8) : Advances (takeBytes s w c) c w := by
  unfold takeBytes; split
  · exact advances_raise rfl c w
  · cases s.mem.read c.toNat w with
    | ok bs => exact .inl ⟨bs, rfl⟩
    | error a => exact .inr (.inr ⟨a, rfl⟩)

theorem advances_rd (s : State) (fmt : Fmt) (c : BitVec 8) : Advances (rd s fmt c) c fmt.width :=
  advances_bind (advances_takeBytes s _ c) (fun _ _ => advances_ok _ _) rfl

theorem advances_rds (s : State) (fmt : Fmt) (n : Nat) (c : BitVec 8) :
    Advances (rds s fmt n c) c (n * fmt.width) :=
  advances_bind (advances_takeBytes s _ c) (fun _ _ => advances_ok _ _) rfl

theorem advances_rde (cfg : Config) (s : State) (t : TableId) (c : BitVec 8) : Advances (rde cfg s t c) c 1 :=
  advances_bind (w' := 0) (advances_takeBytes s 1 c) (fun bs c' => by
    cases tableFor cfg t (bs.headD 0) with
    | none => exact advances_raise rfl c' 0
    | some v => exact advances_ok v c') rfl

/-- The body of a frame command; the other commands have none. -/
def frameBody (s : State) : Instr → ReadOut Payload
  | .load _ _ => .absent 0
  | .decode _ _ => .absent 0
  | .encode _ _ _ => .absent 0
  | .readSingle fmt => (rd s fmt s.cur).bind fun v c => .ok (.value v) c
  | .readEnum t => (rde hardware s t s.cur).bind fun v c => .ok (.variant t v) c
  | .readStriped fmt n => (rds s fmt n.toNat s.cur).bind fun vs c => .ok (.values vs) c
  | .unpackAir => airBody s
  | .unpackAirQuality => airQualityBody hardware s
  | .unpackLight => lightBody s
  | .unpackSound => soundBody hardware s
  | .unpackParticle k => particleBody hardware k s
  | .query => .absent 0

/-- A frame command is the gate and its body. -/
theorem exec_frameCommand {i : Instr} {w : Nat} (h : i.frameWidth = some w) (s : State) :
    exec i s = frameCommand s (frameBody s i) := by
  cases i <;> (try cases h) <;> rfl

/-- The body of a frame command of width w advances by w. -/
theorem advances_frameBody {i : Instr} {w : Nat} (h : i.frameWidth = some w) (s : State) :
    Advances (frameBody s i) s.cur w := by
  cases i with
  | load _ _ => cases h
  | decode _ _ => cases h
  | encode _ _ _ => cases h
  | query => cases h
  | readSingle fmt => cases h; exact advances_bind (advances_rd ..) (fun _ _ => advances_ok ..) rfl
  | readEnum t => cases h; exact advances_bind (advances_rde ..) (fun _ _ => advances_ok ..) rfl
  | readStriped fmt n => cases h; exact advances_bind (advances_rds ..) (fun _ _ => advances_ok ..) rfl
  | unpackAir =>
    cases h
    exact advances_bind (advances_rd ..) (fun _ _ => advances_bind (advances_rd ..) (fun _ _ =>
      advances_bind (advances_rd ..) (fun _ _ => advances_bind (advances_rd ..) (fun _ _ =>
        advances_ok ..) rfl) rfl) rfl) rfl
  | unpackAirQuality =>
    cases h
    refine advances_bind (w' := 7) (advances_rd ..) (fun aqi c => ?_) rfl
    cases tierUnder hardware.aqiOver aqi with
    | none => exact advances_raise rfl c 7
    | some tr =>
      exact advances_bind (advances_rd ..) (fun _ _ => advances_bind (advances_rd ..) (fun _ _ =>
        advances_bind (advances_rde ..) (fun _ _ => advances_ok ..) rfl) rfl) rfl
  | unpackLight =>
    cases h
    exact advances_bind (advances_rd ..) (fun _ _ => advances_bind (advances_rd ..) (fun _ _ =>
      advances_ok ..) rfl) rfl
  | unpackSound =>
    cases h
    exact advances_bind (advances_rd ..) (fun _ _ => advances_bind (advances_rds ..) (fun _ _ =>
      advances_bind (advances_rd ..) (fun _ _ => advances_bind (advances_rde ..) (fun _ _ =>
        advances_ok ..) rfl) rfl) rfl) rfl
  | unpackParticle k =>
    cases h
    simp only [frameBody, particleBody]
    split
    · exact advances_raise rfl s.cur _
    · exact advances_bind (advances_rd ..) (fun _ _ => advances_bind (advances_rd ..) (fun _ _ =>
        advances_bind (advances_rde ..) (fun _ _ => advances_ok ..) rfl) rfl) rfl

/-- An error that aborts leaves the state that `State.failed` names. -/
theorem raise_eq_failed (s : State) {e : Err} (h : e.aborts = true) : s.raise e = s.failed e := by
  unfold State.raise; rw [if_pos h]; rfl

/-- Everything a frame command of width w can do when it answers a next state. -/
theorem frame_exec_cases {i : Instr} {w : Nat} {s t : State} (h : i.frameWidth = some w) (hx : exec i s = .next t) :
    (s.rstate = .fault ∧ t = s.answered .frameAborted .empty) ∨
    (s.rstate = .ready ∧ ∃ p, frameBody s i = .ok p (s.cur + BitVec.ofNat 8 w) ∧ t = s.afterRead w p) ∨
    (s.rstate = .ready ∧ ∃ e, frameBody s i = .raise e ∧ e.aborts = true ∧ t = s.failed e) := by
  rw [exec_frameCommand h] at hx
  rcases frameCommand_next hx with ⟨h1, rfl⟩ | ⟨h1, p, c, hb, rfl⟩ | ⟨h1, e, hb, rfl⟩
  · exact .inl ⟨h1, rfl⟩
  · rcases advances_frameBody h s with ⟨x, hq⟩ | ⟨e, hq, _⟩ | ⟨a, hq⟩ <;> rw [hq] at hb <;> cases hb
    exact .inr (.inl ⟨h1, p, hq, rfl⟩)
  · rcases advances_frameBody h s with ⟨x, hq⟩ | ⟨e, hq, he⟩ | ⟨a, hq⟩ <;> rw [hq] at hb <;> cases hb
    exact .inr (.inr ⟨h1, e, hq, he, raise_eq_failed s he⟩)

end Sys2Proof.Machine
end

