-- ==== Sys2Proof/Laws/PerInstr.lean ====
section
/-! SUPPORT. The reserved fields of every instruction's word are 0 (30_encoding R44), one lemma per instruction. -/

namespace Sys2Proof.Laws.ReservedFields

/-- RSV0, bits 7:4, and RSV1, bits 15:13, of the encoded word are 0. -/
def Statement (i : Instr) : Prop := (encodeWord i).rsv0 = 0 ∧ (encodeWord i).rsv1 = 0

/-- The word made of any fields has its reserved fields 0. -/
theorem of_fields (op : BitVec 4) (f : BitVec 5) (a b : BitVec 8) :
    (CmdWord.ofFields op f a b).rsv0 = 0 ∧ (CmdWord.ofFields op f a b).rsv1 = 0 :=
  ⟨ofFields_rsv0 op f a b, ofFields_rsv1 op f a b⟩

theorem load (len : BitVec 8) (bytes : List Byte) : Statement (.load len bytes) := of_fields ..
theorem decode (fmt : Fmt) (bytes : List Byte) : Statement (.decode fmt bytes) := of_fields ..
theorem encode (fmt : Fmt) (num : Numerator) (den : Denominator) : Statement (.encode fmt num den) := of_fields ..
theorem readSingle (fmt : Fmt) : Statement (.readSingle fmt) := of_fields ..
theorem readEnum (table : TableId) : Statement (.readEnum table) := of_fields ..
theorem readStriped (fmt : Fmt) (count : BitVec 8) : Statement (.readStriped fmt count) := of_fields ..
theorem unpackAir : Statement .unpackAir := of_fields ..
theorem unpackAirQuality : Statement .unpackAirQuality := of_fields ..
theorem unpackLight : Statement .unpackLight := of_fields ..
theorem unpackSound : Statement .unpackSound := of_fields ..
theorem unpackParticle (kind : SensorKind) : Statement (.unpackParticle kind) := of_fields ..
theorem query : Statement .query := of_fields ..

end Sys2Proof.Laws.ReservedFields
end

