-- ==== Sys2Proof/Laws/Step.lean ====
section
/-! SUPPORT. Everything one step can do, and runs of several steps. -/

namespace Sys2Proof.Machine

/-- Everything a step can do: idle, reset, a command, or a pair that encodes none. -/
theorem step_cases (s : State) :
    (s.inbox = [] ∧ step s = .next s) ∨
    (∃ rest, s.inbox = .rst :: rest ∧ step s = .next (s.withInbox rest).applyReset) ∨
    (∃ c rest i, s.inbox = .offer c :: rest ∧ decode c = .instr i ∧ step s = exec i (s.withInbox rest)) ∨
    ∃ c rest r, s.inbox = .offer c :: rest ∧ decode c = .illegal r ∧
      step s = .next ((s.withInbox rest).answered .illegalCommand .empty) := by
  unfold step runEvent
  split
  · exact .inl ⟨‹_›, rfl⟩
  · exact .inr (.inl ⟨_, ‹_›, rfl⟩)
  · rename_i c rest h
    cases hd : decode c with
    | instr i => exact .inr (.inr (.inl ⟨c, rest, i, h, hd, by simp [runOffer, hd]⟩))
    | illegal r => exact .inr (.inr (.inr ⟨c, rest, r, h, hd, by simp [runOffer, hd]; rfl⟩))

/-- A run whose first step answers t goes on from t. -/
theorem run_of_step {s t : State} (h : step s = .next t) (n : Nat) :
    Host.Core.run core (n + 1) s = Host.Core.run core n t := by
  have e : core.step s = .next t := h
  simp only [Host.Core.run, e]

/-- A run that ends in a state begins with a step that answers one. -/
theorem step_of_run {s t : State} {n : Nat} (h : Host.Core.run core (n + 1) s = .next t) :
    ∃ u : State, step s = .next u ∧ Host.Core.run core n u = .next t := by
  cases e : step s with
  | next u => rw [run_of_step e] at h; exact ⟨u, rfl, h⟩
  | fault f => have e : core.step s = .fault f := e; simp [Host.Core.run, e] at h
  | refused f => have e : core.step s = .refused f := e; simp [Host.Core.run, e] at h

end Sys2Proof.Machine
end

