-- ==== Sys2Proof/Laws/Tables.lean ====
section
/-! SUPPORT. The enum tables: the form `tableOf` gives exactly the tables whose codes are distinct (00_scope R6, log
entry 4). -/

namespace Sys2Proof.Machine

/-- A table made from codes and a name for each code gives one variant for each code. -/
theorem tableOf_distinct (code : Byte → Option Byte) (name : Byte → String) : (tableOf code name).Distinct := by
  intro a b u v hu hv h
  simp only [tableOf, Option.map_eq_some_iff] at hu hv
  obtain ⟨c, -, rfl⟩ := hu
  obtain ⟨d, -, rfl⟩ := hv
  simp only at h
  rw [h]

/-- Every table with one variant for each code is made so. -/
theorem exists_tableOf {t : EnumTable} (h : t.Distinct) : ∃ code name, t = tableOf code name := by
  classical
  refine ⟨fun b => (t b).map Variant.code,
    fun c => if hc : ∃ b v, t b = some v ∧ v.code = c then hc.choose_spec.choose.name else "", ?_⟩
  funext b
  simp only [tableOf]
  cases hb : t b with
  | none => simp only [Option.map_none]
  | some v =>
    have hc : ∃ b' v', t b' = some v' ∧ v'.code = v.code := ⟨b, v, hb, rfl⟩
    have hs := hc.choose_spec.choose_spec
    have hv : hc.choose_spec.choose = v := h _ _ _ _ hs.1 hb hs.2
    simp only [Option.map_some, dif_pos hc, hv]

/-- VALIDITY_TABLE has one variant for each code (42_unpack R93). -/
theorem validityTable_distinct : validityTable.Distinct := by
  intro a b u v hu hv h
  have code : ∀ (x : Byte) (w : Variant), validityTable x = some w → w.code = x := by
    intro x w hw
    have hx : ∀ y : Byte, (validityTable y).map Variant.code = some y ∨ validityTable y = none := by decide
    rcases hx x with e | e
    · rw [hw] at e; simpa using e
    · rw [hw] at e; cases e
  have : a = b := by rw [← code a u hu, ← code b v hv, h]
  subst this
  rw [hu] at hv; injection hv

end Sys2Proof.Machine
end

