-- ==== Sys2Proof/Machine/Asm.lean ====
section
/-! DEFINITION. The assembly text of a command (30_encoding R58; log entry 10). -/

namespace Sys2Proof

/-- s<ib>.<fd> or u<ib>.<fd>. -/
def Fmt.asm (f : Fmt) : String :=
  (if f.signed then "s" else "u") ++ Nat.repr f.ib ++ "." ++ Nat.repr f.fd.val

/-- A byte list, [b0, b1, ...], each byte in decimal. -/
def bytesAsm (bs : List Byte) : String :=
  "[" ++ String.intercalate ", " (bs.map fun b => Nat.repr b.toNat) ++ "]"

/-- The table's name in READ_ENUM. -/
def TableId.asm : TableId → String
  | .accuracy => "ACCURACY"
  | .stability => "STABILITY"
  | .validity => "VALIDITY"

/-- The sensor kind's name in UNPACK.PARTICLE. -/
def SensorKind.asm : SensorKind → String
  | .none => "NONE"
  | .ppd42 => "PPD42"
  | .sds011 => "SDS011"

/-- One line of assembly (30_encoding R58). -/
def Instr.asm : Instr → String
  | .load len bytes => "LOAD " ++ Nat.repr len.toNat ++ ", " ++ bytesAsm bytes
  | .decode fmt bytes => "DECODE " ++ fmt.asm ++ ", " ++ bytesAsm bytes
  | .encode fmt num den =>
    "ENCODE " ++ fmt.asm ++ ", " ++ (if num.toInt < 0 then "-" else "") ++ Nat.repr num.toInt.natAbs ++ "/" ++
      Nat.repr den.toNat
  | .readSingle fmt => "READ_SINGLE " ++ fmt.asm
  | .readEnum t => "READ_ENUM " ++ t.asm
  | .readStriped fmt count => "READ_STRIPED " ++ fmt.asm ++ ", " ++ Nat.repr count.toNat
  | .unpackAir => "UNPACK.AIR"
  | .unpackAirQuality => "UNPACK.AIRQUALITY"
  | .unpackLight => "UNPACK.LIGHT"
  | .unpackSound => "UNPACK.SOUND"
  | .unpackParticle k => "UNPACK.PARTICLE " ++ k.asm
  | .query => "QUERY"

end Sys2Proof
end

