-- ==== Sys2Proof/Tests/Slice0.lean ====
section
/-! SUPPORT. Small tests, each expected value from spec/95_test_vectors.md or worked out from the rule its comment
names, and a witness for the hypotheses of each obligation that has any. -/

namespace Sys2Proof.Tests

open Sys2Proof.Machine

/-! ### Helpers -/

/-- The next state of an outcome, if it is one. -/
def stateOf : Result → Option State
  | .next s => some s
  | .fault _ => none
  | .refused _ => none

/-- The last response of the next state and its STATUS word. -/
def answerOf (r : Result) : Option (Response × BitVec 32) :=
  (stateOf r).bind fun t => t.lastResponse.map fun x => (x, statusWord t)

/-- The state after `LOAD` of these bytes. -/
def loaded (bs : List Byte) : State := State.reset.install (BitVec.ofNat 8 bs.length) bs

/-- The artificial instance of 92_eei_decisions D26, with a policy. -/
def testConfig (policy : AqiOverPolicy) : Config where
  accuracy := fun b => if b.toNat < 4 then some ⟨b, "ACC" ++ Nat.repr b.toNat⟩ else none
  stability := fun b => if b.toNat < 2 then some ⟨b, "STB" ++ Nat.repr b.toNat⟩ else none
  validity := validityTable
  unitOfKind := fun k => match k with
    | .none => ""
    | .ppd42 => "U_PPD42"
    | .sds011 => "U_SDS011"
  aqiOver := policy
  cmdLatency := 0

def airFrame : List Byte := [0x95, 0x05, 0xCD, 0x8B, 0x01, 0x00, 0x2D, 0x43, 0x40, 0xE2, 0x01, 0x00]
def airQualityFrame : List Byte := [0x4B, 0x00, 0x00, 0x9C, 0x01, 0x03, 0x00, 0x00, 0x34, 0x03]
def overFrame : List Byte := [0xF4, 0x01, 0x00, 0x9C, 0x01, 0x03, 0x00, 0x00, 0x34, 0x03]
def lightFrame : List Byte := [0xD2, 0x04, 0x38, 0xA0, 0x0F]
def soundFrame : List Byte := [0x2D, 0x06, 0x28, 0x2A, 0x2C, 0x2E, 0x30, 0x32, 0x01, 0x02, 0x03, 0x04, 0x05, 0x06,
  0x0C, 0x00, 0x22, 0x01]
def particleFrame : List Byte := [0x0C, 0x32, 0x23, 0x00, 0x4F, 0x01]

/-- The states F1, F2 and F3 of 95_test_vectors 2.3. -/
def stateF1 : State := loaded [0x95, 0x05, 0x01]
def stateF2 : State := { stateF1 with cur := 2 }
def stateF3 : State := { stateF2 with rstate := .fault, err := .bufferUnderrun }

/-- An unsigned value. -/
def u (mag : BitVec 32) (frac : Byte) (fd : Fin 4) : Value := ⟨false, false, mag, frac, fd⟩

/-! ### Well-formedness: an ill-formed term for each check -/

theorem test_wf_load : (Instr.load 3 [0x95, 0x05]).wf = false ∧ (Instr.load 3 [0x95, 0x05, 0x01]).wf = true := by
  decide
theorem test_wf_decode : (Instr.decode .s1_1 [0x95]).wf = false ∧ (Instr.decode .s1_1 [0x95, 0x05]).wf = true := by
  decide
theorem test_wf_encode : (Instr.encode .u1_1 5 0).wf = false ∧ (Instr.encode .u1_1 5 1).wf = true := by decide

/-! ### Decoding: a word of each constructor, its fields written out, high to low, as B A RSV1 FD IBM1 S RSV0 OP -/

theorem test_decode_load :
    decode ⟨0b00000000_00000011_000_00_00_0_0000_0001, .bytes [0x95, 0x05, 0x01]⟩ =
      .instr (.load 3 [0x95, 0x05, 0x01]) := by decide
theorem test_decode_decode :
    decode ⟨0b00000000_00000000_000_10_01_1_0000_0010, .bytes [0x00, 0x80, 0x63]⟩ =
      .instr (.decode ⟨true, 1, 2⟩ [0x00, 0x80, 0x63]) := by decide
theorem test_decode_encode :
    decode ⟨0b00000000_00000000_000_11_00_0_0000_0011, .ratio 256 1000⟩ =
      .instr (.encode ⟨false, 0, 3⟩ 256 1000) := by decide
theorem test_decode_readSingle :
    decode ⟨0b00000000_00000000_000_00_11_0_0000_0100, .bytes []⟩ = .instr (.readSingle .u4_0) := by decide
theorem test_decode_readEnum :
    decode ⟨0b00000000_00000010_000_00_00_0_0000_0101, .bytes []⟩ = .instr (.readEnum .validity) ∧
    decode ⟨0b00000000_00000001_000_00_00_0_0000_0101, .bytes []⟩ = .instr (.readEnum .stability) ∧
    decode ⟨0b00000000_00000000_000_00_00_0_0000_0101, .bytes []⟩ = .instr (.readEnum .accuracy) := by decide
theorem test_decode_readStriped :
    decode ⟨0b00000000_00000010_000_10_00_1_0000_0110, .bytes []⟩ = .instr (.readStriped ⟨true, 0, 2⟩ 2) := by decide
theorem test_decode_unpack :
    decode ⟨0b00000000_00000000_000_00_00_0_0000_0111, .bytes []⟩ = .instr .unpackAir ∧
    decode ⟨0b00000000_00000001_000_00_00_0_0000_0111, .bytes []⟩ = .instr .unpackAirQuality ∧
    decode ⟨0b00000000_00000010_000_00_00_0_0000_0111, .bytes []⟩ = .instr .unpackLight ∧
    decode ⟨0b00000000_00000011_000_00_00_0_0000_0111, .bytes []⟩ = .instr .unpackSound := by decide
theorem test_decode_unpackParticle :
    decode ⟨0b00000000_00000100_000_00_00_0_0000_0111, .bytes []⟩ = .instr (.unpackParticle .none) ∧
    decode ⟨0b00000001_00000100_000_00_00_0_0000_0111, .bytes []⟩ = .instr (.unpackParticle .ppd42) ∧
    decode ⟨0b00000010_00000100_000_00_00_0_0000_0111, .bytes []⟩ = .instr (.unpackParticle .sds011) := by decide
theorem test_decode_query :
    decode ⟨0b00000000_00000000_000_00_00_0_0000_1000, .bytes []⟩ = .instr .query := by decide

/-- 95_test_vectors 2.6. -/
theorem test_decode_illegal_opcode_reserved :
    [0x00000000, 0x00000009, 0x0000000F].map (fun w => decode ⟨w, .bytes []⟩) =
      [.illegal .opcode, .illegal .opcode, .illegal .opcode] ∧
    [0x00000018, 0x00002004].map (fun w => decode ⟨w, .bytes []⟩) = [.illegal .reserved, .illegal .reserved] := by
  decide
theorem test_decode_illegal_argument :
    [0x00030005, 0x00050007, 0x03040007].map (fun w => decode ⟨w, .bytes []⟩) =
      [.illegal .argument, .illegal .argument, .illegal .argument] := by decide
theorem test_decode_illegal_unused :
    ([0x01000007, 0x00000907, 0x00000108, 0x00010004, 0x01000806, 0x00000801].all fun w =>
      decode ⟨w, .bytes []⟩ == .illegal .unusedField) = true := by decide
/-- D20, D21, E25, F21 and READ_ENUM with a non-empty DATA. -/
theorem test_decode_illegal_data :
    decode ⟨0x00000902, .bytes [0x95]⟩ = .illegal .data ∧
    decode ⟨0x00010902, .bytes [0x95, 0x05]⟩ = .illegal .unusedField ∧
    decode ⟨0x00000803, .ratio 5 0⟩ = .illegal .data ∧
    decode ⟨0x00030001, .bytes [0x95, 0x05]⟩ = .illegal .data ∧
    decode ⟨0x00000005, .bytes [0x00]⟩ = .illegal .data := by decide

/-- A row's word, with operand bits all 0, and the step that runs it right after reset. -/
theorem test_withFetchWord :
    decodeTableWord 32 0x00000003 = some (.encode ⟨false, 0, 0⟩ 0 1) ∧
    decodeTableWord 32 0x00030001 = some (.load 3 [0, 0, 0]) ∧
    answerOf (step (State.reset.withFetchWord 32 0x00000008)) = some (⟨.ok, .status 0⟩, 0) := by decide

/-! ### The commands -/

/-- LOAD in FAULT (F16), and the frame it installs (F1). -/
theorem test_load :
    answerOf (exec (.load 0 []) stateF3) = some (⟨.ok, .empty⟩, 0x00000000) ∧
    (stateOf (exec (.load 3 [0x95, 0x05, 0x01]) stateF3)).map State.frame = some [0x95, 0x05, 0x01] := by decide

/-- D1, D3 (negative zero), D9 and D13: the packed VALUE. -/
theorem test_decode_packed :
    (decodeValue .s1_1 [0x95, 0x05]).pack = 0x00001D0500000015 ∧
    (decodeValue .s1_1 [0x80, 0x00]).pack = 0x00000D0000000000 ∧
    (decodeValue ⟨true, 1, 2⟩ [0x00, 0x80, 0x63]).pack = 0x00001E6300000000 ∧
    (decodeValue ⟨false, 2, 3⟩ [0x01, 0x02, 0x03, 0xFF]).pack = 0x000003FF00030201 := by decide

/-- F19: DECODE runs in FAULT. -/
theorem test_decode_in_fault :
    answerOf (exec (.decode .s1_1 [0x15, 0x05]) stateF3) =
      some (⟨.ok, .value ⟨true, false, 21, 5, 1⟩⟩, 0x00110203) := by decide

/-- E1, E12 and E19, the sign flag. -/
theorem test_encode_signed :
    encodeNumber .s1_1 (BitVec.ofInt 64 (-43)) 2 = some [0x95, 0x05] ∧
    encodeNumber .s1_1 (BitVec.ofInt 64 (-1)) 100 = some [0x80, 0x00] ∧
    encodeNumber ⟨true, 3, 0⟩ (BitVec.ofInt 64 (-2147483647)) 1 = some [0xFF, 0xFF, 0xFF, 0xFF] := by decide

/-- E14, E15 and E27, the floored fraction; E6, E11, E16 and E22, out of range. -/
theorem test_encode_unsigned_and_range :
    encodeNumber .u2_2 2 3 = some [0x00, 0x00, 0x42] ∧
    encodeNumber ⟨false, 0, 3⟩ 255 1000 = some [0x00, 0xFF] ∧
    encodeNumber .u1_2 29 100 = some [0x00, 0x1D] ∧
    encodeNumber .s1_1 (BitVec.ofInt 64 (-128)) 1 = none ∧
    encodeNumber .u1_1 (BitVec.ofInt 64 (-1)) 1000 = none ∧
    encodeNumber ⟨false, 0, 3⟩ 256 1000 = none ∧
    encodeNumber .u4_0 4294967296 1 = none := by decide

/-- F2. -/
theorem test_readSingle :
    answerOf (exec (.readSingle .s1_1) stateF1) = some (⟨.ok, .value ⟨true, true, 21, 5, 1⟩⟩, 0x00000203) := by decide
/-- F3. -/
theorem test_readSingle_underrun :
    answerOf (exec (.readSingle .s1_1) stateF2) = some (⟨.bufferUnderrun, .empty⟩, 0x00110203) := by decide

/-- F5. -/
theorem test_readEnum :
    answerOf (exec (.readEnum .validity) stateF2) =
      some (⟨.ok, .variant .validity ⟨1, "VALID"⟩⟩, 0x00000303) := by decide
/-- F8. -/
theorem test_readEnum_unknown :
    answerOf (exec (.readEnum .validity) (loaded [0x02])) = some (⟨.unknownVariant, .empty⟩, 0x00120001) := by decide

/-- F13. -/
theorem test_readStriped :
    answerOf (exec (.readStriped ⟨true, 0, 2⟩ 2) (loaded [0x81, 0x02, 0x05, 0x63])) =
      some (⟨.ok, .values [⟨true, true, 1, 5, 2⟩, ⟨true, false, 2, 99, 2⟩]⟩, 0x00000404) := by decide
/-- F15 and F20. -/
theorem test_readStriped_fails :
    answerOf (exec (.readStriped .u2_2 2) (loaded [0, 0, 0, 0, 0])) = some (⟨.bufferUnderrun, .empty⟩, 0x00110005) ∧
    answerOf (exec (.readStriped .u1_1 0) stateF3) = some (⟨.frameAborted, .empty⟩, 0x00110203) := by decide

/-- V-U1. -/
theorem test_unpackAir :
    answerOf (exec .unpackAir (loaded airFrame)) =
      some (⟨.ok, .record [(.tC, .value ⟨true, true, 21, 5, 1⟩), (.pPa, .value (u 101325 0 0)),
        (.hPc, .value (u 45 67 2)), (.gOhm, .value (u 123456 0 0))]⟩, 0x00000C0C) := by decide
/-- V-U6. -/
theorem test_unpackAir_short :
    answerOf (exec .unpackAir (loaded (airFrame.take 11))) = some (⟨.bufferUnderrun, .empty⟩, 0x0011000B) := by decide

/-- V-U2. -/
theorem test_unpackAirQuality :
    answerOf (unpackAirQualityWith (testConfig .none) (loaded airQualityFrame)) =
      some (⟨.ok, .record [(.aqi, .value (u 75 0 1)), (.aqiTier, .tier .acceptable), (.co2e, .value (u 412 3 1)),
        (.bVoc, .value (u 0 52 2)), (.accuracy, .variant .accuracy ⟨3, "ACC3"⟩)]⟩, 0x00000A0A) := by decide
/-- V-U2b under ERROR, and V-U2c. -/
theorem test_unpackAirQuality_fails :
    answerOf (unpackAirQualityWith (testConfig .error) (loaded overFrame)) =
      some (⟨.aqiTierUndefined, .empty⟩, 0x0017000A) ∧
    answerOf (unpackAirQualityWith (testConfig .none) (loaded (airQualityFrame.take 9 ++ [0x04]))) =
      some (⟨.unknownVariant, .empty⟩, 0x0012000A) := by decide

/-- 95_test_vectors 2.5. -/
theorem test_tier_boundaries :
    ([[0x00, 0x00, 0x00], [0x31, 0x00, 0x00], [0x31, 0x00, 0x01], [0x63, 0x00, 0x00], [0x63, 0x00, 0x01],
      [0x95, 0x00, 0x00], [0x95, 0x00, 0x05], [0xC7, 0x00, 0x00], [0xC8, 0x00, 0x00], [0x2B, 0x01, 0x00],
      [0x2C, 0x01, 0x00], [0xF3, 0x01, 0x00], [0xF3, 0x01, 0x01], [0xFF, 0xFF, 0x09], [0x31, 0x00, 0x0F],
      [0x30, 0x00, 0x0F]].map fun b => (tierUnder .none (decodeValue .u2_1 b)).map fun t => t.code.toNat) =
    [0, 0, 1, 1, 2, 2, 3, 3, 4, 4, 5, 5, 7, 7, 1, 1].map some := by decide

/-- V-U8. -/
theorem test_unpackLight :
    answerOf (exec .unpackLight { loaded (lightFrame ++ lightFrame) with cur := 5 }) =
      some (⟨.ok, .record [(.illuminance, .value (u 1234 56 2)), (.white, .value (u 4000 0 0))]⟩, 0x00000A0A) := by
  decide

/-- V-U4. -/
theorem test_unpackSound :
    answerOf (unpackSoundWith (testConfig .none) (loaded soundFrame)) =
      some (⟨.ok, .record [(.spl, .value (u 45 6 1)),
        (.splBands, .values [u 40 1 1, u 42 2 1, u 44 3 1, u 46 4 1, u 48 5 1, u 50 6 1]),
        (.peakAmplitude, .value (u 12 34 2)), (.stability, .variant .stability ⟨1, "STB1"⟩)]⟩, 0x00001212) := by
  decide

/-- V-U5. -/
theorem test_unpackParticle :
    answerOf (unpackParticleWith (testConfig .none) .sds011 (loaded particleFrame)) =
      some (⟨.ok, .record [(.dutyCycle, .value (u 12 50 2)), (.concentration, .value (u 35 79 2)),
        (.unit, .unit .sds011 "U_SDS011"), (.validity, .variant .validity ⟨1, "VALID"⟩)]⟩, 0x00000606) := by decide
/-- V-U5c and V-U5d. -/
theorem test_unpackParticle_fails :
    answerOf (exec (.unpackParticle .none) (loaded particleFrame)) =
      some (⟨.noParticleSensor, .empty⟩, 0x00140006) ∧
    answerOf (exec (.unpackParticle .ppd42) (loaded (particleFrame.take 5 ++ [0x02]))) =
      some (⟨.unknownVariant, .empty⟩, 0x00120006) := by decide

/-- F18. -/
theorem test_query : answerOf (exec .query stateF3) = some (⟨.ok, .status 0x00110203⟩, 0x00110203) := by decide

/-- 30_encoding R56, 60_exceptions R110: an illegal word in FAULT is ILLEGAL_COMMAND. -/
theorem test_illegal_in_fault :
    answerOf (step (stateF3.offerNext ⟨0x00050007, .bytes []⟩)) = some (⟨.illegalCommand, .empty⟩, 0x00110203) := by
  decide

/-- 30_encoding R58. -/
theorem test_asm :
    (Instr.encode .s1_1 (BitVec.ofInt 64 (-43)) 2).asm = "ENCODE s1.1, -43/2" ∧
    (Instr.readStriped .u1_1 6).asm = "READ_STRIPED u1.1, 6" ∧
    (Instr.unpackParticle .sds011).asm = "UNPACK.PARTICLE SDS011" := by decide

/-! ### Witnesses: concrete states and operands that meet the hypotheses of each obligation that has any, for each of
its clauses at a boundary where there is one -/

def offering (e : List HostEvent) (s : State) : State := { s with inbox := e }
def lightBelow : State := { loaded (lightFrame ++ [0xAA]) with cur := 2 }
def lightExact : State := { loaded (0xAA :: lightFrame) with cur := 1 }
/-- A full frame, the cursor at its end. -/
def fullState : State := { loaded (List.replicate 255 0x31) with cur := 255 }

/-- A state just loaded meets the invariants, wherever the cursor is then put within the frame. -/
theorem inv_loaded {bs : List Byte} (h : bs.length ≤ 255) {c : BitVec 8} (hc : c.toNat ≤ bs.length) :
    ({ loaded bs with cur := c } : State).Inv := by
  have hl : (BitVec.ofNat 8 bs.length).toNat = bs.length := by rw [BitVec.toNat_ofNat]; omega
  refine ⟨?_, ?_, ⟨fun _ => rfl, fun _ => rfl⟩⟩
  · change (Memory.ofBytes bs).map Prod.fst = List.range (BitVec.ofNat 8 bs.length).toNat
    rw [ofBytes_fst, hl]
  · change c.toNat ≤ (BitVec.ofNat 8 bs.length).toNat
    rw [hl]; exact hc

theorem inv_stateF1 : stateF1.Inv := ⟨by decide, by decide, by decide⟩
theorem inv_stateF2 : stateF2.Inv := ⟨by decide, by decide, by decide⟩
theorem inv_stateF3 : stateF3.Inv := ⟨by decide, by decide, by decide⟩
theorem inv_reset : State.reset.Inv := ⟨by decide, by decide, by decide⟩
theorem inv_fullState : fullState.Inv :=
  inv_loaded (le_of_eq List.length_replicate) (le_of_eq List.length_replicate.symm)

theorem len_fullState : fullState.len = 255 :=
  congrArg (BitVec.ofNat 8) (List.length_replicate : (List.replicate 255 (0x31 : Byte)).length = 255)

theorem witness_RstRestoresReset : (offering [.rst, .rst] stateF3).inbox = .rst :: [.rst] := rfl
theorem witness_IdleHoldsState : stateF3.inbox = [] := rfl
theorem witness_StepRunsDecoded :
    (offering [offerOf .query] stateF3).inbox = .offer (encode .query) :: [] ∧
      decode (encode .query) = .instr .query := ⟨rfl, by decide⟩
theorem witness_StepKeepsInvariant :
    (offering [offerOf (.readSingle .s1_1)] stateF2).Inv ∧
      (stateOf (step (offering [offerOf (.readSingle .s1_1)] stateF2))).map State.err = some .bufferUnderrun :=
  ⟨⟨by decide, by decide, by decide⟩, by decide⟩
theorem witness_EveryOfferIsAnswered :
    (offering [.offer ⟨0, .bytes []⟩] stateF3).Inv ∧
      (offering [.offer ⟨0, .bytes []⟩] stateF3).inbox = .offer ⟨0, .bytes []⟩ :: [] :=
  ⟨⟨by decide, by decide, by decide⟩, rfl⟩
/-- By reset, and by a LOAD of no bytes. -/
theorem witness_OnlyLoadOrResetLeavesFault :
    stateF3.rstate = .fault ∧
    (stateOf (step (offering [.rst] stateF3))).map State.rstate = some .ready ∧
    (stateOf (step (offering [offerOf (.load 0 [])] stateF3))).map State.rstate = some .ready := by decide

/-- The least and the greatest of the sized operands. -/
theorem witness_DecodeOfEncode :
    (Instr.load 0 []).wf = true ∧ (Instr.load 255 (List.replicate 255 0xFF)).wf = true ∧
    (Instr.decode ⟨false, 0, 0⟩ [0]).wf = true ∧ (Instr.decode ⟨true, 3, 3⟩ [1, 2, 3, 4, 5]).wf = true ∧
    (Instr.encode ⟨true, 3, 3⟩ (BitVec.ofInt 64 (-1)) 1).wf = true ∧
    (Instr.encode ⟨false, 0, 0⟩ 0 0xFFFFFFFF).wf = true :=
  ⟨by decide, beq_iff_eq.2 List.length_replicate, by decide, by decide, by decide, by decide⟩
theorem witness_EncodeOfDecode :
    decode ⟨0x00FF1F06, .bytes []⟩ = .instr (.readStriped ⟨true, 3, 3⟩ 255) := by decide

/-- Each way of R56, at the first value past the legal ones, and a pair of none of them. -/
theorem witness_IllegalPairsAnswered :
    IllegalPair 0x00000000 (.bytes []) ∧ IllegalPair 0x00000009 (.bytes []) ∧ IllegalPair 0x00000018 (.bytes []) ∧
    IllegalPair 0x00002004 (.bytes []) ∧ IllegalPair 0x00000801 (.bytes []) ∧ IllegalPair 0x00010004 (.bytes []) ∧
    IllegalPair 0x01000806 (.bytes []) ∧ IllegalPair 0x00030005 (.bytes []) ∧ IllegalPair 0x00050007 (.bytes []) ∧
    IllegalPair 0x03040007 (.bytes []) ∧ IllegalPair 0x00000003 (.ratio 5 0) ∧
    ¬IllegalPair 0x02040007 (.bytes []) ∧ ¬IllegalPair 0x00020005 (.bytes []) ∧
    ¬IllegalPair 0x00000003 (.ratio 5 1) := by
  refine ⟨?_, ?_, ?_, ?_, ?_, ?_, ?_, ?_, ?_, ?_, ?_, ?_, ?_, ?_⟩ <;> (simp only [IllegalPair, DataFits]; decide)
theorem witness_OpcodeTableRows : ("QUERY", (0x00000008 : CmdWord), (0xFFFFFFFF : CmdWord)) ∈ opcodeTable ∧
    ("READ_ENUM", (0x00000005 : CmdWord), (0xFFFCFFFF : CmdWord)) ∈ opcodeTable := by decide

theorem witness_DecodeCommand :
    [(0x95 : Byte), 0x05].length = Fmt.s1_1.width ∧ [(0x95 : Byte)].length ≠ Fmt.s1_1.width := by decide

/-- E4 and E7, the capacity of s1.1, E15, the largest fraction byte, and E12, a negative number of zero magnitude. -/
theorem witness_EncodePacksBytes :
    ¬OutOfRange .s1_1 12799 100 ∧ ¬OutOfRange .s1_1 127 1 ∧ ¬OutOfRange ⟨false, 0, 3⟩ 255 1000 ∧
    ¬OutOfRange .s1_1 (BitVec.ofInt 64 (-1)) 100 := by
  simp only [OutOfRange]; decide
/-- E11, E5, E9 and E16: one for each case of R65, at its first value. -/
theorem witness_EncodeFailsOutOfRange :
    OutOfRange .u1_1 (BitVec.ofInt 64 (-1)) 1000 ∧ OutOfRange .s1_1 128 1 ∧ OutOfRange ⟨false, 0, 0⟩ 256 1 ∧
    OutOfRange ⟨false, 0, 3⟩ 256 1000 ∧ fractionPart ⟨false, 0, 3⟩ 256 1000 = 256 := by
  simp only [OutOfRange]; decide
/-- E1 and E12. -/
theorem witness_DecodeAfterEncode :
    exec (.encode .s1_1 (BitVec.ofInt 64 (-43)) 2) stateF3 = .next (stateF3.answered .ok (.bytes [0x95, 0x05])) ∧
    (stateF3.answered .ok (.bytes [0x95, 0x05])).lastResponse = some ⟨.ok, .bytes [0x95, 0x05]⟩ ∧
    exec (.encode .s1_1 (BitVec.ofInt 64 (-1)) 100) stateF3 =
      .next (stateF3.answered .ok (.bytes [0x80, 0x00])) := ⟨rfl, rfl, rfl⟩
/-- D1 and E1. -/
theorem witness_EncodeAfterDecode :
    [(0x95 : Byte), 0x05].length = Fmt.s1_1.width ∧ (2 : Denominator) ≠ 0 ∧
    (decodeValue .s1_1 [0x95, 0x05]).frac.toNat < min 256 (10 ^ Fmt.s1_1.fd.val) ∧
    ¬((decodeValue .s1_1 [0x95, 0x05]).rawSign = true ∧ (decodeValue .s1_1 [0x95, 0x05]).mag = 0 ∧
      (decodeValue .s1_1 [0x95, 0x05]).frac = 0) ∧
    encodedNumber (BitVec.ofInt 64 (-43)) 2 = (decodeValue .s1_1 [0x95, 0x05]).numeric := by
  refine ⟨by decide, by decide, by decide, by decide, ?_⟩
  have h : decodeValue .s1_1 [0x95, 0x05] = ⟨true, true, 21, 5, 1⟩ := by decide
  have h1 : (BitVec.ofInt 64 (-43)).toInt = -43 := rfl
  have h2 : (2 : Denominator).toNat = 2 := rfl
  have h3 : (21 : BitVec 32).toNat = 21 := rfl
  have h4 : (5 : Byte).toNat = 5 := rfl
  simp only [h, encodedNumber, Value.numeric, h1, h2, h3, h4]
  norm_num
theorem witness_CodecIgnoresState :
    exec (.decode .s1_1 [0x95]) stateF3 = .next (stateF3.answered .illegalCommand .empty) ∧
    exec (.encode .u1_1 5 1) stateF3 = .next (stateF3.answered .ok (.bytes [0x05, 0x00])) := ⟨rfl, rfl⟩

theorem witness_LoadInstallsFrame :
    ([] : List Byte).length = (0 : BitVec 8).toNat ∧ (List.replicate 255 (0 : Byte)).length = (255 : BitVec 8).toNat ∧
    [(0 : Byte)].length ≠ (0 : BitVec 8).toNat := ⟨rfl, List.length_replicate, by decide⟩
/-- FAULT; one byte too few; exactly enough. -/
theorem witness_ReadSingleCommand :
    (stateF3.Inv ∧ stateF3.rstate = .fault) ∧
    (stateF2.Inv ∧ stateF2.rstate ≠ .fault ∧ stateF2.len.toNat < stateF2.cur.toNat + Fmt.s1_1.width) ∧
    (stateF2.Inv ∧ stateF2.len.toNat = stateF2.cur.toNat + Fmt.width ⟨false, 0, 0⟩) :=
  ⟨⟨inv_stateF3, rfl⟩, ⟨inv_stateF2, by decide, by decide⟩, inv_stateF2, by decide⟩
/-- FAULT; the cursor at the end of a full frame; one byte left. -/
theorem witness_ReadEnumCommand :
    (stateF3.Inv ∧ stateF3.rstate = .fault) ∧ (fullState.Inv ∧ fullState.cur = fullState.len) ∧
    (stateF2.Inv ∧ stateF2.rstate = .ready ∧ stateF2.cur ≠ stateF2.len) :=
  ⟨⟨inv_stateF3, rfl⟩, ⟨inv_fullState, len_fullState.symm⟩, inv_stateF2, rfl, by decide⟩
/-- The bytes 0, 1, 2 and 255. -/
theorem witness_ValidityLookup :
    (loaded [0, 1, 2, 255]).Inv ∧ (loaded [0, 1, 2, 255]).rstate = .ready ∧
    (loaded [0, 1, 2, 255]).cur.toNat < (loaded [0, 1, 2, 255]).len.toNat ∧ (loaded [0, 1, 2, 255]).byteAt 0 = 0 ∧
    ({ loaded [0, 1, 2, 255] with cur := 1 } : State).byteAt 0 = 1 ∧
    2 ≤ (({ loaded [0, 1, 2, 255] with cur := 2 } : State).byteAt 0).toNat ∧
    2 ≤ (({ loaded [0, 1, 2, 255] with cur := 3 } : State).byteAt 0).toNat :=
  ⟨⟨by decide, by decide, by decide⟩, by decide⟩
/-- An exact fit (F13), one byte too few (F15), and no element at the end of a full frame. -/
theorem witness_ReadStripedCommand :
    (loaded [0x81, 0x02, 0x05, 0x63]).Inv ∧
    (loaded [0x81, 0x02, 0x05, 0x63]).cur.toNat + 2 * Fmt.width ⟨true, 0, 2⟩ =
      (loaded [0x81, 0x02, 0x05, 0x63]).len.toNat ∧
    (loaded [0, 0, 0, 0, 0]).Inv ∧
    (loaded [0, 0, 0, 0, 0]).len.toNat < (loaded [0, 0, 0, 0, 0]).cur.toNat + 2 * Fmt.u2_2.width ∧
    fullState.Inv ∧ fullState.cur.toNat + 0 * Fmt.u2_2.width = fullState.len.toNat :=
  ⟨⟨by decide, by decide, by decide⟩, by decide, ⟨by decide, by decide, by decide⟩, by decide, inv_fullState, by rw [len_fullState]; rfl⟩
/-- F10 and F11. -/
theorem witness_StripedIsRowMajor :
    (loaded [0x0A, 0x14, 0x1E, 0x01, 0x02, 0x03]).Inv ∧ (loaded [0x0A, 0x01, 0x14, 0x02, 0x1E, 0x03]).Inv ∧
    (loaded [0x0A, 0x14, 0x1E, 0x01, 0x02, 0x03]).rstate = .ready ∧
    (loaded [0x0A, 0x01, 0x14, 0x02, 0x1E, 0x03]).rstate = .ready ∧
    (loaded [0x0A, 0x14, 0x1E, 0x01, 0x02, 0x03]).cur.toNat + (3 : BitVec 8).toNat * Fmt.u1_1.width ≤
      (loaded [0x0A, 0x14, 0x1E, 0x01, 0x02, 0x03]).len.toNat ∧
    (loaded [0x0A, 0x01, 0x14, 0x02, 0x1E, 0x03]).cur.toNat + (3 : BitVec 8).toNat * Fmt.u1_1.width ≤
      (loaded [0x0A, 0x01, 0x14, 0x02, 0x1E, 0x03]).len.toNat ∧
    (loaded [0x0A, 0x01, 0x14, 0x02, 0x1E, 0x03]).bytesAt 0 ((3 : BitVec 8).toNat * Fmt.u1_1.width) =
      rowMajor .u1_1 (3 : BitVec 8).toNat
        ((loaded [0x0A, 0x14, 0x1E, 0x01, 0x02, 0x03]).bytesAt 0 ((3 : BitVec 8).toNat * Fmt.u1_1.width)) :=
  ⟨⟨by decide, by decide, by decide⟩, ⟨by decide, by decide, by decide⟩, by decide⟩

theorem witness_FaultGate :
    (Instr.readStriped .u1_1 0).frameWidth = some 0 ∧ Instr.unpackSound.frameWidth = some 18 ∧
      stateF3.rstate = .fault := by decide
/-- A success and a failure. -/
theorem witness_FrameCommandsFrame :
    Instr.unpackLight.frameWidth = some 5 ∧
    (stateOf (exec .unpackLight lightExact)).map State.cur = some 6 ∧
    (stateOf (exec .unpackLight lightBelow)).map State.cur = some 2 := by decide
theorem witness_OnlyLoadWritesFrame :
    (∀ len bytes, Instr.unpackLight ≠ .load len bytes) ∧
    (stateOf (exec .unpackLight lightExact)).isSome = true := ⟨by simp, by decide⟩
theorem witness_CursorOnlyAdvances :
    lightExact.Inv ∧ (∀ len bytes, Instr.unpackLight ≠ .load len bytes) ∧
    (stateOf (exec .unpackLight lightExact)).isSome = true :=
  ⟨⟨by decide, by decide, by decide⟩, by simp, by decide⟩
/-- The same five bytes at two cursors, the bytes beside them different. -/
theorem witness_FrameCommandReadsItsRange :
    Instr.unpackLight.frameWidth = some 5 ∧ lightExact.Inv ∧ (loaded (lightFrame ++ [0x77])).Inv ∧
    lightExact.rstate = (loaded (lightFrame ++ [0x77])).rstate ∧ lightExact.err = (loaded (lightFrame ++ [0x77])).err ∧
    lightExact.cur.toNat + 5 ≤ lightExact.len.toNat ∧
    (loaded (lightFrame ++ [0x77])).cur.toNat + 5 ≤ (loaded (lightFrame ++ [0x77])).len.toNat ∧
    lightExact.bytesAt 0 5 = (loaded (lightFrame ++ [0x77])).bytesAt 0 5 :=
  ⟨rfl, ⟨by decide, by decide, by decide⟩, ⟨by decide, by decide, by decide⟩, by decide⟩
/-- F5 after F2. -/
theorem witness_SuccessfulReadsAreConsecutive :
    stateF1.Inv ∧ (∀ i ∈ [Instr.readSingle .s1_1, .readEnum .validity], i.frameWidth.isSome = true) ∧
    ((stateOf (Host.Core.run core 2 (stateF1.offers [.readSingle .s1_1, .readEnum .validity]))).map fun t =>
      (stateF1.since t).all fun r => r.status == .ok) = some true := ⟨inv_stateF1, by decide, by decide⟩
/-- From a state in FAULT and from a full frame. -/
theorem witness_LoadErasesHistory :
    [(0x01 : Byte)].length = (1 : BitVec 8).toNat ∧
    (stateOf (Host.Core.run core 2 (stateF3.offers [.load 1 [0x01], .readEnum .validity]))).isSome = true ∧
    (stateOf (Host.Core.run core 2 (fullState.offers [.load 1 [0x01], .readEnum .validity]))).isSome = true :=
  ⟨rfl, rfl, rfl⟩

/-- One for each error of this hardware's commands. -/
theorem witness_ErrorEffect :
    ([offering [offerOf (.readSingle .s1_1)] stateF2, offering [offerOf (.readEnum .validity)] (loaded [0x02]),
      offering [offerOf (.unpackParticle .none)] stateF1, offering [offerOf (.encode ⟨false, 0, 0⟩ 256 1)] stateF1,
      offering [offerOf (.readSingle .s1_1)] stateF3, offering [.offer ⟨0, .bytes []⟩] stateF1].map fun s =>
        ((stateOf (step s)).bind State.lastResponse).map Response.status) =
    [.bufferUnderrun, .unknownVariant, .noParticleSensor, .encodingRange, .frameAborted, .illegalCommand].map some := by
  decide
theorem witness_ErrorsOfEachCommand :
    (Instr.unpackParticle .none).wf = true ∧
    ((stateOf (exec (.unpackParticle .none) stateF1)).bind State.lastResponse).map Response.status =
      some .noParticleSensor := by decide

/-- For each UNPACK: FAULT (F3), and READY with one byte too few and with exactly enough. -/
theorem witness_UnpackCommands :
    stateF3.Inv ∧ stateF3.rstate = .fault ∧
    (loaded (airFrame.take 11)).Inv ∧ (loaded airFrame).Inv ∧
    (loaded (airQualityFrame.take 9)).Inv ∧ (loaded airQualityFrame).Inv ∧
    lightBelow.Inv ∧ lightBelow.len.toNat + 1 = lightBelow.cur.toNat + 5 ∧
    lightExact.Inv ∧ lightExact.len.toNat = lightExact.cur.toNat + 5 ∧
    (loaded (soundFrame.take 17)).Inv ∧ (loaded soundFrame).Inv ∧
    (loaded (particleFrame.take 5)).Inv ∧ (loaded particleFrame).Inv :=
  ⟨inv_stateF3, rfl, ⟨by decide, by decide, by decide⟩, ⟨by decide, by decide, by decide⟩,
    ⟨by decide, by decide, by decide⟩, ⟨by decide, by decide, by decide⟩, ⟨by decide, by decide, by decide⟩, rfl,
    ⟨by decide, by decide, by decide⟩, rfl, ⟨by decide, by decide, by decide⟩, ⟨by decide, by decide, by decide⟩,
    ⟨by decide, by decide, by decide⟩, ⟨by decide, by decide, by decide⟩⟩

/-- V-U2b: AQI = 500.0, and 499.1, the least u2.1 value above 499, under each policy. -/
theorem witness_AirQualityEachPolicy :
    (loaded overFrame).Inv ∧ (loaded overFrame).rstate = .ready ∧
    (loaded overFrame).cur.toNat + 10 ≤ (loaded overFrame).len.toNat ∧
    499 < ((loaded overFrame).fieldAt .u2_1 0).numeric ∧
    499 < ((loaded [0xF3, 0x01, 0x01]).fieldAt .u2_1 0).numeric ∧
    (testConfig .none).aqiOver ≠ .error ∧ (testConfig .clamp).aqiOver ≠ .error ∧ (testConfig .error).aqiOver = .error ∧
    (testConfig .clamp).accuracy ((loaded overFrame).byteAt 9) = some ⟨3, "ACC3"⟩ := by
  have h : (loaded overFrame).fieldAt .u2_1 0 = u 500 0 1 := by decide
  have h' : (loaded [0xF3, 0x01, 0x01]).fieldAt .u2_1 0 = u 499 1 1 := by decide
  refine ⟨⟨by decide, by decide, by decide⟩, by decide, by decide, ?_, ?_, by decide, by decide, by decide, by decide⟩
  · have e : (500 : BitVec 32).toNat = 500 := rfl
    have f : (0 : Byte).toNat = 0 := rfl
    simp only [h, u, Value.numeric, e, f]; norm_num
  · have e : (499 : BitVec 32).toNat = 499 := rfl
    have f : (1 : Byte).toNat = 1 := rfl
    simp only [h', u, Value.numeric, e, f]; norm_num

/-- Each clause, its frame exactly long enough. -/
theorem witness_CompletesUnderEachTable :
    ((loaded [0x03]).Inv ∧ (loaded [0x03]).rstate = .ready ∧ (loaded [0x03]).cur.toNat + 1 = (loaded [0x03]).len.toNat ∧
      tableFor (testConfig .none) .accuracy ((loaded [0x03]).byteAt 0) = some ⟨3, "ACC3"⟩) ∧
    ((loaded airQualityFrame).Inv ∧ (loaded airQualityFrame).rstate = .ready ∧
      (loaded airQualityFrame).cur.toNat + 10 = (loaded airQualityFrame).len.toNat ∧
      (testConfig .none).accuracy ((loaded airQualityFrame).byteAt 9) = some ⟨3, "ACC3"⟩ ∧
      tierUnder (testConfig .none).aqiOver ((loaded airQualityFrame).fieldAt .u2_1 0) = some .acceptable) ∧
    ((loaded soundFrame).Inv ∧ (loaded soundFrame).rstate = .ready ∧
      (loaded soundFrame).cur.toNat + 18 = (loaded soundFrame).len.toNat ∧
      (testConfig .none).stability ((loaded soundFrame).byteAt 17) = some ⟨1, "STB1"⟩) ∧
    ((loaded particleFrame).Inv ∧ (loaded particleFrame).rstate = .ready ∧ SensorKind.sds011 ≠ .none ∧
      (loaded particleFrame).cur.toNat + 6 = (loaded particleFrame).len.toNat ∧
      (testConfig .none).validity ((loaded particleFrame).byteAt 5) = some ⟨1, "VALID"⟩) :=
  ⟨⟨⟨by decide, by decide, by decide⟩, by decide⟩, ⟨⟨by decide, by decide, by decide⟩, by decide⟩,
    ⟨⟨by decide, by decide, by decide⟩, by decide⟩, ⟨by decide, by decide, by decide⟩, by decide⟩

theorem witness_AqiTierThresholds : (u 49 0 1).rawSign = false ∧ (u 49 1 1).rawSign = false ∧
    (u 499 0 1).rawSign = false ∧ (u 499 1 1).rawSign = false := by decide
/-- The three categories whose tables this hardware fixes. -/
theorem witness_UnpackIsItsReads :
    ((loaded airFrame).Inv ∧ (loaded lightFrame).Inv ∧ (loaded particleFrame).Inv) ∧
    ([exec (categoryUnpack .none .air) (loaded airFrame), exec (categoryUnpack .none .light) (loaded lightFrame),
      exec (categoryUnpack .sds011 .particle) (loaded particleFrame)].all fun r =>
        ((stateOf r).bind State.lastResponse).map Response.status == some .ok) = true :=
  ⟨⟨⟨by decide, by decide, by decide⟩, ⟨by decide, by decide, by decide⟩, ⟨by decide, by decide, by decide⟩⟩,
    by decide⟩
/-- One byte too few; exactly enough, and a byte no validity has. -/
theorem witness_UnpackUnderrunsExactly :
    lightBelow.Inv ∧ lightBelow.rstate = .ready ∧ SensorKind.ppd42 ≠ .none ∧
    ((stateOf (exec (categoryUnpack .ppd42 .light) lightBelow)).bind State.lastResponse).map Response.status =
      some .bufferUnderrun ∧
    (loaded (particleFrame.take 5 ++ [0x02])).Inv ∧
    ((stateOf (exec (categoryUnpack .ppd42 .particle) (loaded (particleFrame.take 5 ++ [0x02])))).bind
      State.lastResponse).map Response.status = some .unknownVariant :=
  ⟨⟨by decide, by decide, by decide⟩, by decide, by decide, by decide, ⟨by decide, by decide, by decide⟩, by decide⟩

end Sys2Proof.Tests
end

section
/-! What a step does with the host's next event when it is an offered pair (30_encoding R56, 70_reset_and_hazards
R131). -/

namespace Sys2Proof.Machine

/-- An offered pair is taken from the inbox and run. -/
theorem step_of_offer {s : State} {c : Command} {rest : List HostEvent} (h : s.inbox = .offer c :: rest) :
    step s = runOffer exec c (s.withInbox rest) := by
  simp only [step, runEvent, h]

theorem runOffer_of_decode {c : Command} {i : Instr} (h : decode c = .instr i)
    (meaning : Instr → State → Result) (s : State) : runOffer meaning c s = meaning i s := by
  simp only [runOffer, h]

/-- Settles O5: the step takes the offer, and the offer decodes to the instruction that runs. -/
theorem stepRunsDecoded : Obligations.StepRunsDecoded := by
  intro s c rest i hin hd
  rw [step_of_offer hin, runOffer_of_decode hd]
  rfl

end Sys2Proof.Machine
end

section
/-! Reads in sequence from the cursor, where FRAME has LEN bytes: one underrun check for all of them. -/

namespace Sys2Proof.Machine

/-- Everything `rd` can do at the cursor itself. -/
theorem rd_cur {s : State} (h : s.FrameHolds) (fmt : Fmt) :
    rd s fmt s.cur =
      if s.len.toNat < s.cur.toNat + fmt.width then .raise .bufferUnderrun
      else .ok (s.fieldAt fmt 0) (s.cur + BitVec.ofNat 8 fmt.width) := rd_eq h fmt s.cur

/-- A read whose only failure is an underrun at offset k, followed by reads that underrun exactly when the frame is
shorter than n ≥ k bytes past the cursor, underruns exactly then (42_unpack R102). -/
theorem bind_underrun {α β : Type} {s : State} {m : ReadOut α} {x : α} {c : BitVec 8} {k n : Nat}
    {f : α → BitVec 8 → ReadOut β} {r : ReadOut β}
    (hm : m = if s.len.toNat < s.cur.toNat + k then .raise .bufferUnderrun else .ok x c) (hkn : k ≤ n)
    (hf : s.cur.toNat + k ≤ s.len.toNat →
      f x c = if s.len.toNat < s.cur.toNat + n then .raise .bufferUnderrun else r) :
    m.bind f = if s.len.toNat < s.cur.toNat + n then .raise .bufferUnderrun else r := by
  subst hm
  by_cases hk : s.len.toNat < s.cur.toNat + k
  · rw [if_pos hk, if_pos (by omega), bind_raise]
  · rw [if_neg hk, bind_ok, hf (by omega)]

/-- A table lookup at offset i, then the rest of the body: the underrun comes before the lookup (41_frame R79). -/
theorem bind_rde_at {α : Type} {s : State} (h : s.FrameHolds) (cfg : Config) (t : TableId) (i : Nat)
    (hi : s.cur.toNat + i ≤ s.len.toNat) (f : Variant → BitVec 8 → ReadOut α) :
    (rde cfg s t (s.cur + BitVec.ofNat 8 i)).bind f =
      if s.len.toNat < s.cur.toNat + (i + 1) then .raise .bufferUnderrun
      else match tableFor cfg t (s.byteAt i) with
        | none => .raise .unknownVariant
        | some v => f v (s.cur + BitVec.ofNat 8 (i + 1)) := by
  rw [rde_at h cfg t i hi]
  split
  · rfl
  · cases tableFor cfg t (s.byteAt i) <;> rfl

/-- The body of READ_ENUM. -/
theorem bind_rde_cur {α : Type} {s : State} (h : s.FrameHolds) (cfg : Config) (t : TableId)
    (f : Variant → BitVec 8 → ReadOut α) :
    (rde cfg s t s.cur).bind f =
      if s.len.toNat < s.cur.toNat + 1 then .raise .bufferUnderrun
      else match tableFor cfg t (s.byteAt 0) with
        | none => .raise .unknownVariant
        | some v => f v (s.cur + BitVec.ofNat 8 1) := by
  rw [rde_eq h]
  split
  · rfl
  · rw [State.byteAt, Nat.add_zero]
    cases tableFor cfg t (s.frame.getD s.cur.toNat 0) <;> rfl

/-- A byte of the bytes past the cursor. -/
theorem bytesAt_getD (s : State) {i k n : Nat} (hk : k < n) : (s.bytesAt i n).getD k 0 = s.byteAt (i + k) := by
  simp only [State.bytesAt, State.byteAt, slice, List.getD_eq_getElem?_getD, List.getElem?_take_of_lt hk,
    List.getElem?_drop, Nat.add_assoc]

/-- One byte of the bytes past the cursor, as a list. -/
theorem slice_bytesAt_one {s : State} (h : s.FrameHolds) {i k n : Nat} (hk : k < n)
    (fits : s.cur.toNat + (i + k) < s.len.toNat) : slice (s.bytesAt i n) k 1 = [s.byteAt (i + k)] := by
  have hlen : s.cur.toNat + i + k < s.frame.length := by rw [frame_length h]; omega
  rw [State.bytesAt, slice_slice _ _ _ _ _ hk, slice, List.drop_eq_getElem_cons hlen, State.byteAt, ← Nat.add_assoc,
    List.getD_eq_getElem _ _ hlen, List.take_succ_cons, List.take_zero]

/-- A striped region of u1.1 pairs byte k with byte n + k (20_memory R32). -/
theorem stripedValues_u1_1 {s : State} (h : s.FrameHolds) (n i : Nat)
    (fits : s.cur.toNat + (i + n * 2) ≤ s.len.toNat) :
    stripedValues .u1_1 n (s.bytesAt i (n * 2)) =
      (List.range n).map fun k => decodeValue .u1_1 [s.byteAt (i + k), s.byteAt (i + n + k)] := by
  refine List.map_congr_left fun k hk => ?_
  have hkn : k < n := List.mem_range.mp hk
  change decodeParts .u1_1 (slice (s.bytesAt i (n * 2)) (k * 1) 1) ((s.bytesAt i (n * 2)).getD (n * 1 + k) 0) =
    decodeParts .u1_1 [s.byteAt (i + k)] (s.byteAt (i + n + k))
  rw [Nat.mul_one, Nat.mul_one, slice_bytesAt_one h (by omega) (by omega), bytesAt_getD s (by omega), Nat.add_assoc]

end Sys2Proof.Machine
end

section
/-! The bodies of the commands that look a byte up, under any configuration: everything each can do where FRAME has LEN
bytes (41_frame R79; 42_unpack R97, R99, R101). -/

namespace Sys2Proof.Machine

variable {s : State}

/-- When the policy gives the AQI a tier. -/
theorem airQualityBody_eq (h : s.FrameHolds) (cfg : Config) {tier : Tier}
    (ht : tierUnder cfg.aqiOver (s.fieldAt .u2_1 0) = some tier) :
    airQualityBody cfg s =
      if s.len.toNat < s.cur.toNat + 10 then .raise .bufferUnderrun
      else match cfg.accuracy (s.byteAt 9) with
        | none => .raise .unknownVariant
        | some v => .ok (.record [(.aqi, .value (s.fieldAt .u2_1 0)), (.aqiTier, .tier tier),
            (.co2e, .value (s.fieldAt .u2_1 3)), (.bVoc, .value (s.fieldAt .u2_2 6)),
            (.accuracy, .variant .accuracy v)]) (s.cur + BitVec.ofNat 8 10) := by
  refine bind_underrun (rd_cur h .u2_1) (by decide) fun h3 => ?_
  simp only [ht]
  refine bind_underrun (rd_at h .u2_1 3 h3) (by decide) fun h6 => ?_
  refine bind_underrun (rd_at h .u2_2 6 h6) (by decide) fun h9 => ?_
  exact bind_rde_at h cfg .accuracy 9 h9 _

theorem soundBody_eq (h : s.FrameHolds) (cfg : Config) :
    soundBody cfg s =
      if s.len.toNat < s.cur.toNat + 18 then .raise .bufferUnderrun
      else match cfg.stability (s.byteAt 17) with
        | none => .raise .unknownVariant
        | some v => .ok (.record [(.spl, .value (s.fieldAt .u1_1 0)),
            (.splBands, .values ((List.range 6).map fun i =>
              decodeValue .u1_1 [s.byteAt (2 + i), s.byteAt (8 + i)])),
            (.peakAmplitude, .value (s.fieldAt .u2_2 14)), (.stability, .variant .stability v)])
            (s.cur + BitVec.ofNat 8 18) := by
  refine bind_underrun (rd_cur h .u1_1) (by decide) fun h2 => ?_
  refine bind_underrun (rds_at h .u1_1 6 2 h2) (by decide) fun h14 => ?_
  have bands := stripedValues_u1_1 h 6 2 h14
  refine bind_underrun (rd_at h .u2_2 14 h14) (by decide) fun h17 => ?_
  rw [← bands]
  exact bind_rde_at h cfg .stability 17 h17 _

/-- For an enabled sensor. -/
theorem particleBody_eq (h : s.FrameHolds) (cfg : Config) {kind : SensorKind} (hk : kind ≠ .none) :
    particleBody cfg kind s =
      if s.len.toNat < s.cur.toNat + 6 then .raise .bufferUnderrun
      else match cfg.validity (s.byteAt 5) with
        | none => .raise .unknownVariant
        | some v => .ok (.record [(.dutyCycle, .value (s.fieldAt .u1_2 0)),
            (.concentration, .value (s.fieldAt .u2_2 2)), (.unit, .unit kind (cfg.unitOfKind kind)),
            (.validity, .variant .validity v)]) (s.cur + BitVec.ofNat 8 6) := by
  rw [particleBody, if_neg hk]
  refine bind_underrun (rd_cur h .u1_2) (by decide) fun h2 => ?_
  refine bind_underrun (rd_at h .u2_2 2 h2) (by decide) fun h5 => ?_
  exact bind_rde_at h cfg .validity 5 h5 _

end Sys2Proof.Machine
end

section
/-! The commands that look a byte up complete: each body's success, run in READY (00_scope R5, R6). -/

namespace Sys2Proof.Machine

/-- In READY a frame command whose body succeeds answers its payload, the cursor moved. -/
theorem frameCommand_of_ok {s : State} {body : ReadOut Payload} {p : Payload} {w : Nat} (hr : s.rstate = .ready)
    (hb : body = .ok p (s.cur + BitVec.ofNat 8 w)) : frameCommand s body = .next (s.afterRead w p) := by
  rw [hb, frameCommand_ready hr]
  rfl

/-- Settles O44: with enough bytes and a variant in the table, each body takes its success branch. -/
theorem completesUnderEachTable : Obligations.CompletesUnderEachTable := by
  intro cfg s v inv hr
  refine ⟨fun table fits hv => ?readEnum, fun tier fits hv ht => ?airQuality, fun fits hv => ?sound,
    fun kind hk fits hv => ?particle⟩ <;> refine frameCommand_of_ok hr ?_
  case readEnum => rw [bind_rde_cur inv.frame, if_neg (by omega), hv]
  case airQuality => rw [airQualityBody_eq inv.frame cfg ht, if_neg (by omega), hv]
  case sound => rw [soundBody_eq inv.frame, if_neg (by omega), hv]
  case particle => rw [particleBody_eq inv.frame cfg hk, if_neg (by omega), hv]

end Sys2Proof.Machine
end

section
/-! Reads that stay within the frame: where FRAME has LEN bytes no read reaches an absent byte, and a success ends at
or below LEN (41_frame R75, R77, R85). -/

namespace Sys2Proof.Machine

/-- A read from cursor c that, where it succeeds, advances by w within LEN, and otherwise raises an error that
aborts. -/
def StaysWithin {α : Type} (s : State) (r : ReadOut α) (c : BitVec 8) (w : Nat) : Prop :=
  (∃ x, r = .ok x (c + BitVec.ofNat 8 w) ∧ c.toNat + w ≤ s.len.toNat) ∨ ∃ e, r = .raise e ∧ e.aborts = true

theorem staysWithin_ok {α : Type} {s : State} (x : α) {c : BitVec 8} (hc : c.toNat ≤ s.len.toNat) :
    StaysWithin s (.ok x c) c 0 := .inl ⟨x, by simp, hc⟩

theorem staysWithin_raise {α : Type} {e : Err} (he : e.aborts = true) (s : State) (c : BitVec 8) (w : Nat) :
    StaysWithin s (.raise e : ReadOut α) c w := .inr ⟨e, rfl, he⟩

/-- Reads in sequence stay within the frame, each starting where the one before it ended. -/
theorem staysWithin_bind {α β : Type} {s : State} {r : ReadOut α} {c : BitVec 8} {w w' total : Nat}
    {f : α → BitVec 8 → ReadOut β} (hr : StaysWithin s r c w)
    (hf : ∀ x c', c'.toNat ≤ s.len.toNat → StaysWithin s (f x c') c' w') (sum : w + w' = total) :
    StaysWithin s (r.bind f) c total := by
  subst sum
  rcases hr with ⟨x, rfl, fits⟩ | ⟨e, rfl, he⟩
  · have hc : (c + BitVec.ofNat 8 w).toNat = c.toNat + w := cur_add fits
    rcases hf x (c + BitVec.ofNat 8 w) (hc ▸ fits) with ⟨y, hy, fits'⟩ | ⟨e, hy, he⟩
    · exact .inl ⟨y, by rw [bind_ok, hy, add_ofNat_add_ofNat], by omega⟩
    · exact .inr ⟨e, hy, he⟩
  · exact .inr ⟨e, rfl, he⟩

/-- What is made of a read's result moves nothing. -/
theorem staysWithin_map {α β : Type} {s : State} {r : ReadOut α} {c : BitVec 8} {w : Nat} (hr : StaysWithin s r c w)
    (f : α → β) : StaysWithin s (r.bind fun x c => .ok (f x) c) c w :=
  staysWithin_bind hr (fun _ _ hc => staysWithin_ok _ hc) rfl

section Reads
variable {s : State} (h : s.FrameHolds)
include h

theorem staysWithin_takeBytes (w : Nat) (c : BitVec 8) : StaysWithin s (takeBytes s w c) c w := by
  rw [takeBytes_eq h]
  split
  · exact staysWithin_raise rfl s c w
  · exact .inl ⟨_, rfl, by omega⟩

theorem staysWithin_rd (fmt : Fmt) (c : BitVec 8) : StaysWithin s (rd s fmt c) c fmt.width :=
  staysWithin_map (staysWithin_takeBytes h _ c) _

theorem staysWithin_rds (fmt : Fmt) (n : Nat) (c : BitVec 8) : StaysWithin s (rds s fmt n c) c (n * fmt.width) :=
  staysWithin_map (staysWithin_takeBytes h _ c) _

theorem staysWithin_rde (cfg : Config) (t : TableId) (c : BitVec 8) : StaysWithin s (rde cfg s t c) c 1 :=
  staysWithin_bind (w' := 0) (staysWithin_takeBytes h 1 c) (fun bs c' hc => by
    cases tableFor cfg t (bs.headD 0) with
    | none => exact staysWithin_raise rfl s c' 0
    | some v => exact staysWithin_ok v hc) rfl

/-- A read of one field, then the rest of the body. -/
theorem staysWithin_bind_rd {α : Type} (fmt : Fmt) {c : BitVec 8} {w : Nat} {f : Value → BitVec 8 → ReadOut α}
    (hf : ∀ x c', c'.toNat ≤ s.len.toNat → StaysWithin s (f x c') c' w) :
    StaysWithin s ((rd s fmt c).bind f) c (fmt.width + w) := staysWithin_bind (staysWithin_rd h fmt c) hf rfl

/-- The body of a frame command of width w advances by w within the frame or raises an error that aborts. -/
theorem staysWithin_frameBody {i : Instr} {w : Nat} (hw : i.frameWidth = some w) :
    StaysWithin s (frameBody s i) s.cur w := by
  cases i with
  | load _ _ => cases hw
  | decode _ _ => cases hw
  | encode _ _ _ => cases hw
  | query => cases hw
  | readSingle fmt => cases hw; exact staysWithin_map (staysWithin_rd h fmt _) _
  | readEnum t => cases hw; exact staysWithin_map (staysWithin_rde h hardware t _) _
  | readStriped fmt n => cases hw; exact staysWithin_map (staysWithin_rds h fmt n.toNat _) _
  | unpackAir =>
    cases hw
    exact staysWithin_bind_rd h .s1_1 fun _ _ _ => staysWithin_bind_rd h .u4_0 fun _ _ _ =>
      staysWithin_bind_rd h .u1_2 fun _ _ _ => staysWithin_map (staysWithin_rd h .u4_0 _) _
  | unpackAirQuality =>
    cases hw
    refine staysWithin_bind_rd h .u2_1 (w := 7) fun aqi c _ => ?_
    cases tierUnder hardware.aqiOver aqi with
    | none => exact staysWithin_raise rfl s c 7
    | some tr =>
      exact staysWithin_bind_rd h .u2_1 fun _ _ _ => staysWithin_bind_rd h .u2_2 fun _ _ _ =>
        staysWithin_map (staysWithin_rde h hardware .accuracy _) _
  | unpackLight =>
    cases hw
    exact staysWithin_bind_rd h .u2_2 fun _ _ _ => staysWithin_map (staysWithin_rd h .u2_0 _) _
  | unpackSound =>
    cases hw
    exact staysWithin_bind_rd h .u1_1 fun _ _ _ => staysWithin_bind (staysWithin_rds h .u1_1 6 _) (fun _ _ _ =>
      staysWithin_bind_rd h .u2_2 fun _ _ _ => staysWithin_map (staysWithin_rde h hardware .stability _) _) rfl
  | unpackParticle k =>
    cases hw
    simp only [frameBody, particleBody]
    split
    · exact staysWithin_raise rfl s s.cur _
    · exact staysWithin_bind_rd h .u1_2 fun _ _ _ => staysWithin_bind_rd h .u2_2 fun _ _ _ =>
        staysWithin_map (staysWithin_rde h hardware .validity _) _

end Reads

end Sys2Proof.Machine
end

section
/-! Everything a command can do, the frame commands and the others together. -/

namespace Sys2Proof.Machine

/-- In FAULT a frame command does not run its body. -/
theorem frameCommand_fault {s : State} (h : s.rstate = .fault) (body : ReadOut Payload) :
    frameCommand s body = .next (s.raise .frameAborted) := if_pos h

/-- A command that is not a frame command is a LOAD that installs its frame, or answers and changes nothing. -/
theorem exec_of_frameWidth_none {i : Instr} (hw : i.frameWidth = none) (s : State) :
    (∃ len bytes, i = .load len bytes ∧ bytes.length = len.toNat ∧
      exec i s = .next ((s.install len bytes).answer .ok .empty)) ∨
    ∃ e p, exec i s = .next (s.answered e p) := by
  cases i with
  | load len bytes =>
    by_cases hl : bytes.length = len.toNat
    · exact .inl ⟨len, bytes, rfl, hl, if_pos hl⟩
    · exact .inr ⟨.illegalCommand, .empty, if_neg hl⟩
  | decode fmt bytes =>
    by_cases hl : bytes.length = fmt.width
    · exact .inr ⟨.ok, .value (decodeValue fmt bytes), if_pos hl⟩
    · exact .inr ⟨.illegalCommand, .empty, if_neg hl⟩
  | encode fmt num den =>
    simp only [exec, execEncode]
    split
    · exact .inr ⟨.illegalCommand, .empty, rfl⟩
    · cases encodeNumber fmt num den with
      | none => exact .inr ⟨.encodingRange, .empty, rfl⟩
      | some bs => exact .inr ⟨.ok, .bytes bs, rfl⟩
  | query => exact .inr ⟨.ok, .status (statusWord s), rfl⟩
  | readSingle _ => cases hw
  | readEnum _ => cases hw
  | readStriped _ _ => cases hw
  | unpackAir => cases hw
  | unpackAirQuality => cases hw
  | unpackLight => cases hw
  | unpackSound => cases hw
  | unpackParticle _ => cases hw

/-- Everything a command can do when it answers a next state: install a frame (LOAD alone), answer and change nothing,
read w bytes, or fail and put the reader in FAULT. -/
theorem exec_cases {i : Instr} {s t : State} (hx : exec i s = .next t) :
    (∃ len bytes, i = .load len bytes ∧ bytes.length = len.toNat ∧ t = (s.install len bytes).answer .ok .empty) ∨
    (∃ e p, t = s.answered e p) ∨
    (∃ w p, i.frameWidth = some w ∧ frameBody s i = .ok p (s.cur + BitVec.ofNat 8 w) ∧ t = s.afterRead w p) ∨
    ∃ e, e.aborts = true ∧ t = s.failed e := by
  cases hw : i.frameWidth with
  | none =>
    rcases exec_of_frameWidth_none hw s with ⟨len, bytes, hi, hl, h⟩ | ⟨e, p, h⟩ <;> cases h.symm.trans hx
    · exact .inl ⟨len, bytes, hi, hl, rfl⟩
    · exact .inr (.inl ⟨e, p, rfl⟩)
  | some w =>
    rcases frame_exec_cases hw hx with ⟨-, ht⟩ | ⟨-, p, hb, ht⟩ | ⟨-, e, -, he, ht⟩
    · exact .inr (.inl ⟨_, _, ht⟩)
    · exact .inr (.inr (.inl ⟨w, p, rfl, hb, ht⟩))
    · exact .inr (.inr (.inr ⟨e, he, ht⟩))

/-- Where FRAME has LEN bytes, a frame command that succeeds ends within LEN. -/
theorem read_fits {i : Instr} {w : Nat} {s : State} {p : Payload} {c : BitVec 8} (h : s.FrameHolds)
    (hw : i.frameWidth = some w) (hb : frameBody s i = .ok p c) : s.cur.toNat + w ≤ s.len.toNat := by
  rcases staysWithin_frameBody h hw with ⟨_, -, fits⟩ | ⟨e, he, -⟩
  · exact fits
  · cases he.symm.trans hb

/-- Where FRAME has LEN bytes, every command answers a next state. -/
theorem exec_answers {s : State} (h : s.FrameHolds) (i : Instr) : ∃ t, exec i s = .next t := by
  cases hw : i.frameWidth with
  | none => rcases exec_of_frameWidth_none hw s with ⟨_, _, -, -, h⟩ | ⟨_, _, h⟩ <;> exact ⟨_, h⟩
  | some w =>
    rw [exec_frameCommand hw]
    cases hr : s.rstate with
    | fault => exact ⟨_, frameCommand_fault hr _⟩
    | ready =>
      rw [frameCommand_ready hr]
      rcases staysWithin_frameBody h hw with ⟨p, hb, -⟩ | ⟨e, hb, -⟩ <;> rw [hb] <;> exact ⟨_, rfl⟩

end Sys2Proof.Machine
end

section
/-! The invariants of 10_state R18: what keeps them, one lemma per state update, then for a command, a step and a
run. -/

namespace Sys2Proof.Machine

theorem inv_reset : State.reset.Inv := ⟨rfl, Nat.le_refl 0, iff_of_true rfl rfl⟩

section Updates
variable {s : State}

theorem inv_withInbox (inv : s.Inv) (rest : List HostEvent) : (s.withInbox rest).Inv :=
  ⟨inv.frame, inv.cursor, inv.flags⟩

theorem inv_applyReset (s : State) : s.applyReset.Inv := ⟨inv_reset.frame, inv_reset.cursor, inv_reset.flags⟩

theorem inv_answered (inv : s.Inv) (e : Err) (p : Payload) : (s.answered e p).Inv :=
  ⟨inv.frame, inv.cursor, inv.flags⟩

theorem inv_failed (inv : s.Inv) {e : Err} (he : e.aborts = true) : (s.failed e).Inv where
  frame := inv.frame
  cursor := inv.cursor
  flags := by
    have hne : e ≠ .ok := by rintro rfl; cases he
    exact iff_of_false nofun hne

theorem inv_afterRead (inv : s.Inv) {w : Nat} (fits : s.cur.toNat + w ≤ s.len.toNat) (p : Payload) :
    (s.afterRead w p).Inv where
  frame := inv.frame
  cursor := by rw [afterRead_cur, cur_add fits]; exact fits
  flags := inv.flags

theorem inv_install (s : State) {len : BitVec 8} {bytes : List Byte} (hl : bytes.length = len.toNat) :
    ((s.install len bytes).answer .ok .empty).Inv where
  frame := by rw [State.FrameHolds, answer_mem, install_mem, ofBytes_fst, hl]; rfl
  cursor := Nat.zero_le _
  flags := iff_of_true rfl rfl

end Updates

theorem exec_keeps_inv {i : Instr} {s t : State} (inv : s.Inv) (hx : exec i s = .next t) : t.Inv := by
  rcases exec_cases hx with ⟨len, bytes, -, hl, rfl⟩ | ⟨e, p, rfl⟩ | ⟨w, p, hw, hb, rfl⟩ | ⟨e, he, rfl⟩
  · exact inv_install s hl
  · exact inv_answered inv e p
  · exact inv_afterRead inv (read_fits inv.frame hw hb) p
  · exact inv_failed inv he

/-- Every step answers a next state and keeps the invariants, whatever the host's next event. -/
theorem step_inv {s : State} (inv : s.Inv) : ∃ t, step s = .next t ∧ t.Inv := by
  rcases step_cases s with ⟨-, h⟩ | ⟨rest, -, h⟩ | ⟨c, rest, i, -, -, h⟩ | ⟨c, rest, r, -, -, h⟩
  · exact ⟨s, h, inv⟩
  · exact ⟨_, h, inv_applyReset _⟩
  · have inv' := inv_withInbox inv rest
    obtain ⟨t, ht⟩ := exec_answers inv'.frame i
    exact ⟨t, h.trans ht, exec_keeps_inv inv' ht⟩
  · exact ⟨_, h, inv_answered (inv_withInbox inv rest) _ _⟩

/-- A run of any length from a state that meets the invariants ends in one that does. -/
theorem run_inv {s : State} (inv : s.Inv) (k : Nat) : ∃ t : State, Host.Core.run core k s = .next t ∧ t.Inv := by
  induction k generalizing s with
  | zero => exact ⟨s, rfl, inv⟩
  | succ k ih =>
    obtain ⟨u, hu, inv'⟩ := step_inv inv
    rw [run_of_step hu]
    exact ih inv'

/-- ERR holds code 0 exactly when it holds no error. -/
theorem code_eq_zero_iff (e : Err) : e.code = 0 ↔ e = .ok := by cases e <;> decide

end Sys2Proof.Machine
end

section
/-! The obligations on the state: its reset value, its invariants, and what a command leaves unchanged. -/

namespace Sys2Proof.Machine

/-- Settles O1: each component is read off the reset state. -/
theorem resetValues : Obligations.ResetValues := ⟨rfl, rfl, rfl, rfl, rfl, rfl, rfl⟩

/-- Settles O2: no byte, LEN and CUR 0, and no error. -/
theorem resetMeetsInvariant : Obligations.ResetMeetsInvariant := ⟨inv_reset, reset_mem_wf⟩

/-- Settles O6: the step is total and keeps the invariants, and FRAME with LEN bytes is in canonical form. -/
theorem stepKeepsInvariant : Obligations.StepKeepsInvariant := by
  intro s inv
  obtain ⟨t, ht, inv'⟩ := step_inv inv
  refine ⟨⟨t, ht⟩, fun u hu => ?_⟩
  cases ht.symm.trans hu
  exact ⟨inv', wf_of_frameHolds inv'.frame⟩

/-- Settles O7: the invariants hold at reset, whatever the host is to send, and along every run. -/
theorem everyReachableStateGood : Obligations.EveryReachableStateGood := by
  intro events k
  obtain ⟨t, ht, inv⟩ := run_inv (inv_withInbox inv_reset events) k
  have hlen := t.len.isLt
  exact ⟨t, ht, inv.cursor, by omega, frame_length inv.frame, inv.flags.trans (code_eq_zero_iff t.err).symm⟩

/-- Settles O34: of the four things a command can do, only the LOAD's writes the buffer or LEN. -/
theorem onlyLoadWritesFrame : Obligations.OnlyLoadWritesFrame := by
  intro i s t hload hx
  rcases exec_cases hx with ⟨len, bytes, hi, -, -⟩ | ⟨e, p, rfl⟩ | ⟨w, p, -, -, rfl⟩ | ⟨e, -, rfl⟩
  · exact absurd hi (hload len bytes)
  · exact ⟨rfl, fun _ => rfl, rfl⟩
  · exact ⟨rfl, fun _ => rfl, rfl⟩
  · exact ⟨rfl, fun _ => rfl, rfl⟩

/-- Settles O35: only a success of a frame command moves the cursor, and it ends within LEN, so it does not wrap. -/
theorem cursorOnlyAdvances : Obligations.CursorOnlyAdvances := by
  intro i s t inv hload hx
  refine ⟨?_, (exec_keeps_inv inv hx).cursor⟩
  rcases exec_cases hx with ⟨len, bytes, hi, -, -⟩ | ⟨e, p, rfl⟩ | ⟨w, p, hw, hb, rfl⟩ | ⟨e, -, rfl⟩
  · exact absurd hi (hload len bytes)
  · exact Nat.le_refl _
  · rw [afterRead_cur, cur_add (read_fits inv.frame hw hb)]
    exact Nat.le_add_right _ w
  · exact Nat.le_refl _

end Sys2Proof.Machine
end

section
/-! The host's lists do not reach the block: what a command does to the block and the responses it adds are the same
whatever events are still to come and whatever responses were given before (10_state R26, 20_memory R36). -/

namespace Sys2Proof.Machine

/-- The state with other events to come, and with these responses given before its own. -/
def State.withHost (s : State) (events : List HostEvent) (past : List Response) : State :=
  { s with inbox := events, outbox := past ++ s.outbox }

/-- A result with its next state, if it answers one, changed. -/
def mapNext (f : State → State) : Result → Result
  | .next s => .next (f s)
  | .fault r => .fault r
  | .refused r => .refused r

section Host
variable (s : State) (events : List HostEvent) (past : List Response)

/-- An answer is added after the responses given before. -/
theorem withHost_answer (e : Err) (p : Payload) :
    (s.withHost events past).answer e p = (s.answer e p).withHost events past := by
  simp only [State.answer, State.withHost, List.append_assoc]

theorem withHost_raise (e : Err) : (s.withHost events past).raise e = (s.raise e).withHost events past := by
  unfold State.raise
  cases e.aborts
  · exact withHost_answer s events past e .empty
  · exact withHost_answer (s.abort e) events past e .empty

theorem frameCommand_withHost (body : ReadOut Payload) :
    frameCommand (s.withHost events past) body = mapNext (·.withHost events past) (frameCommand s body) := by
  cases hr : s.rstate with
  | fault =>
    have hr' : (s.withHost events past).rstate = .fault := hr
    rw [frameCommand_fault hr', frameCommand_fault hr, withHost_raise]
    rfl
  | ready =>
    have hr' : (s.withHost events past).rstate = .ready := hr
    rw [frameCommand_ready hr', frameCommand_ready hr]
    cases body with
    | ok p c => exact congrArg _ (withHost_answer (s.setCur c) events past .ok p)
    | raise e => exact congrArg _ (withHost_raise s events past e)
    | absent a => rfl

/-- A command commutes with the host's lists: the block and the response are the same. -/
theorem exec_withHost (i : Instr) :
    exec i (s.withHost events past) = mapNext (·.withHost events past) (exec i s) := by
  have raised (e : Err) := congrArg Host.Outcome.next (β := Result) (withHost_raise s events past e)
  cases i with
  | load len bytes =>
    simp only [exec, execLoad]
    split
    · exact congrArg _ (withHost_answer (s.install len bytes) events past .ok .empty)
    · exact raised .illegalCommand
  | decode fmt bytes =>
    simp only [exec, execDecode]
    split
    · exact congrArg _ (withHost_answer s events past .ok _)
    · exact raised .illegalCommand
  | encode fmt num den =>
    simp only [exec, execEncode]
    split
    · exact raised .illegalCommand
    · cases encodeNumber fmt num den with
      | none => exact raised .encodingRange
      | some bs => exact congrArg _ (withHost_answer s events past .ok _)
  | query => exact congrArg _ (withHost_answer s events past .ok (.status (statusWord s)))
  | readSingle _ => exact frameCommand_withHost ..
  | readEnum _ => exact frameCommand_withHost ..
  | readStriped _ _ => exact frameCommand_withHost ..
  | unpackAir => exact frameCommand_withHost ..
  | unpackAirQuality => exact frameCommand_withHost ..
  | unpackLight => exact frameCommand_withHost ..
  | unpackSound => exact frameCommand_withHost ..
  | unpackParticle _ => exact frameCommand_withHost ..

theorem runOffer_withHost (c : Command) :
    runOffer exec c (s.withHost events past) = mapNext (·.withHost events past) (runOffer exec c s) := by
  cases hd : decode c with
  | instr i => rw [runOffer_of_decode hd, runOffer_of_decode hd, exec_withHost]
  | illegal r =>
    simp only [runOffer, hd]
    exact congrArg _ (withHost_raise s events past .illegalCommand)

/-- A step takes the first event as it would if no others were to come. -/
theorem step_withHost (e : HostEvent) :
    step (s.withHost (e :: events) past) = mapNext (·.withHost events past) (step (s.withInbox [e])) := by
  cases e with
  | rst => rfl
  | offer c => exact runOffer_withHost (s.withInbox []) events past c

end Host

/-- From a state that meets the invariants, what the host sends decides the block's state and the responses added,
whatever it is to send after that and whatever it received before. -/
theorem run_withHost (events : List HostEvent) {s : State} (inv : s.Inv) :
    ∃ t : State, ∀ later past, Host.Core.run core events.length (s.withHost (events ++ later) past) =
      .next (t.withHost later past) := by
  induction events generalizing s with
  | nil => exact ⟨s, fun _ _ => rfl⟩
  | cons e events ih =>
    obtain ⟨u, hu, inv'⟩ := step_inv (inv_withInbox inv [e])
    obtain ⟨t, ht⟩ := ih inv'
    refine ⟨t, fun later past => ?_⟩
    have first : step (s.withHost (e :: (events ++ later)) past) = .next (u.withHost (events ++ later) past) := by
      rw [step_withHost, hu]; rfl
    exact (run_of_step first _).trans (ht later past)

/-- The responses given since the past ones are the state's own. -/
theorem since_withHost (s t : State) (events : List HostEvent) :
    s.since (t.withHost events s.outbox) = t.outbox := List.drop_left

theorem decode_encode_load {len : BitVec 8} {bytes : List Byte} (hl : bytes.length = len.toNat) :
    decode (encode (.load len bytes)) = .instr (.load len bytes) := by
  simp [decode, encode, encodeWord, encodeData, decodeLoad, decodeUnless, hl]

/-- An offered LOAD gives the state that LOAD gives after reset, but for the host's lists. -/
theorem step_load (s : State) {len : BitVec 8} {bytes : List Byte} (is : List Instr)
    (hl : bytes.length = len.toNat) :
    step (s.offers (.load len bytes :: is)) =
      .next (((State.reset.install len bytes).answer .ok .empty).withHost (is.map offerOf ++ s.inbox) s.outbox) := by
  have hin : (s.offers (.load len bytes :: is)).inbox =
    .offer (encode (.load len bytes)) :: (is.map offerOf ++ s.inbox) := rfl
  rw [step_of_offer hin, runOffer_of_decode (decode_encode_load hl)]
  exact if_pos hl

/-- Settles O38: after the LOAD the two states differ in the host's lists alone, and those do not reach the block. -/
theorem loadErasesHistory : Obligations.LoadErasesHistory := by
  intro len bytes is s s' t t' hl ht ht'
  obtain ⟨u, hu⟩ := run_withHost (is.map offerOf) (inv_install State.reset hl)
  rw [List.length_map] at hu
  rw [run_of_step (step_load s is hl), hu] at ht
  rw [run_of_step (step_load s' is hl), hu] at ht'
  cases ht
  cases ht'
  rw [since_withHost, since_withHost]
  exact ⟨rfl, rfl, rfl, rfl, rfl, rfl⟩

end Sys2Proof.Machine
end

section
/-! When each part of the decoder gives an instruction, and which (30_encoding R46 to R51). -/

namespace Sys2Proof

variable {d : Data} {i : Instr}

@[simp] theorem decodeUnless_eq_instr {unused : Bool} {r : Decoded} :
    decodeUnless unused r = .instr i ↔ unused = false ∧ r = .instr i := by
  cases unused <;> simp [decodeUnless]

@[simp] theorem decodeNoData_eq_instr {j : Instr} : decodeNoData d j = .instr i ↔ d = .bytes [] ∧ j = i := by
  unfold decodeNoData
  split <;> simp

@[simp] theorem decodeLoad_eq_instr {len : BitVec 8} :
    decodeLoad len d = .instr i ↔ ∃ bs, d = .bytes bs ∧ bs.length = len.toNat ∧ .load len bs = i := by
  cases d with
  | bytes bs => by_cases h : bs.length = len.toNat <;> simp [decodeLoad, h]
  | ratio num den => simp [decodeLoad]

@[simp] theorem decodeDecode_eq_instr {fmt : Fmt} :
    decodeDecode fmt d = .instr i ↔ ∃ bs, d = .bytes bs ∧ bs.length = fmt.width ∧ .decode fmt bs = i := by
  cases d with
  | bytes bs => by_cases h : bs.length = fmt.width <;> simp [decodeDecode, h]
  | ratio num den => simp [decodeDecode]

@[simp] theorem decodeEncode_eq_instr {fmt : Fmt} :
    decodeEncode fmt d = .instr i ↔ ∃ num den, d = .ratio num den ∧ den ≠ 0#32 ∧ .encode fmt num den = i := by
  cases d with
  | bytes bs => simp [decodeEncode]
  | ratio num den => by_cases h : den = 0#32 <;> simp [decodeEncode, h]

theorem tableId_ofCode_eq_some {a : BitVec 8} {t : TableId} : TableId.ofCode? a = some t ↔ a = t.code :=
  ⟨fun h => (tableId_code_ofCode h).symm, fun h => h ▸ tableId_ofCode_code t⟩

theorem sensorKind_ofCode_eq_some {b : BitVec 8} {k : SensorKind} : SensorKind.ofCode? b = some k ↔ b = k.code :=
  ⟨fun h => (sensorKind_code_ofCode h).symm, fun h => h ▸ sensorKind_ofCode_code k⟩

@[simp] theorem decodeReadEnum_eq_instr {a : BitVec 8} :
    decodeReadEnum a d = .instr i ↔ d = .bytes [] ∧ ∃ t : TableId, a = t.code ∧ .readEnum t = i := by
  simp only [← tableId_ofCode_eq_some]
  unfold decodeReadEnum
  cases TableId.ofCode? a <;> simp

@[simp] theorem decodeUnpack_eq_instr {a b : BitVec 8} :
    decodeUnpack a b d = .instr i ↔ d = .bytes [] ∧
      ((a = 0 ∧ b = 0 ∧ .unpackAir = i) ∨ (a = 1 ∧ b = 0 ∧ .unpackAirQuality = i) ∨
        (a = 2 ∧ b = 0 ∧ .unpackLight = i) ∨ (a = 3 ∧ b = 0 ∧ .unpackSound = i) ∨
        (a = 4 ∧ ∃ k : SensorKind, b = k.code ∧ .unpackParticle k = i)) := by
  simp only [← sensorKind_ofCode_eq_some, ← BitVec.toNat_inj (x := a)]
  unfold decodeUnpack
  split
  case h_5 h => cases SensorKind.ofCode? b <;> simp [h]
  all_goals simp_all [and_left_comm]

/-- The opcode table of 30_encoding R55: which opcode leads to which part of the decoder, and which of the fields FMT,
A and B it does not use. -/
theorem decode_eq_instr {w : CmdWord} :
    decode ⟨w, d⟩ = .instr i ↔ w.rsv0 = 0 ∧ w.rsv1 = 0 ∧
      ((w.op = 1 ∧ w.fmtBits = 0 ∧ w.b = 0 ∧ decodeLoad w.a d = .instr i) ∨
      (w.op = 2 ∧ w.a = 0 ∧ w.b = 0 ∧ decodeDecode w.fmt d = .instr i) ∨
      (w.op = 3 ∧ w.a = 0 ∧ w.b = 0 ∧ decodeEncode w.fmt d = .instr i) ∨
      (w.op = 4 ∧ w.a = 0 ∧ w.b = 0 ∧ decodeNoData d (.readSingle w.fmt) = .instr i) ∨
      (w.op = 5 ∧ w.fmtBits = 0 ∧ w.b = 0 ∧ decodeReadEnum w.a d = .instr i) ∨
      (w.op = 6 ∧ w.b = 0 ∧ decodeNoData d (.readStriped w.fmt w.a) = .instr i) ∨
      (w.op = 7 ∧ w.fmtBits = 0 ∧ decodeUnpack w.a w.b d = .instr i) ∨
      (w.op = 8 ∧ w.fmtBits = 0 ∧ w.a = 0 ∧ w.b = 0 ∧ decodeNoData d .query = .instr i)) := by
  simp only [decode, ← BitVec.toNat_inj (x := w.op)]
  split
  case isTrue h => simp; tauto
  case isFalse h =>
    obtain ⟨h0, h1⟩ : w.rsv0 = 0 ∧ w.rsv1 = 0 := by tauto
    split <;> simp_all [and_assoc]

end Sys2Proof
end

section
/-! The decoder and the encoder are inverse to each other (30_encoding R57). -/

namespace Sys2Proof

/-- The six fields of 30_encoding R43 make up the word. -/
theorem word_eq_iff {v w : CmdWord} : v = w ↔
    v.rsv0 = w.rsv0 ∧ v.rsv1 = w.rsv1 ∧ v.op = w.op ∧ v.fmtBits = w.fmtBits ∧ v.a = w.a ∧ v.b = w.b := by
  refine ⟨by rintro rfl; simp, fun h => BitVec.eq_of_toNat_eq ?_⟩
  simp only [CmdWord.rsv0, CmdWord.rsv1, CmdWord.op, CmdWord.fmtBits, CmdWord.a, CmdWord.b, ← BitVec.toNat_inj,
    extract_toNat] at h
  omega

theorem ofFields_eq_iff {w : CmdWord} {op : BitVec 4} {f : BitVec 5} {a b : BitVec 8} :
    CmdWord.ofFields op f a b = w ↔
      w.rsv0 = 0 ∧ w.rsv1 = 0 ∧ w.op = op ∧ w.fmtBits = f ∧ w.a = a ∧ w.b = b := by
  rw [eq_comm, word_eq_iff, ofFields_rsv0, ofFields_rsv1, ofFields_op, ofFields_fmtBits, ofFields_a, ofFields_b]

/-- The word of an instruction has the fields that its row of the opcode table reads back. -/
theorem decode_encode {i : Instr} (h : i.wf = true) : decode (encode i) = .instr i := by
  rw [encode, decode_eq_instr]
  cases i <;> simp_all [encodeWord, encodeData, Instr.wf]

/-- In each row of the opcode table the fields that the row reads, and the zeros it asks for elsewhere, give back the
whole word. -/
theorem encode_decode {c : Command} {i : Instr} (h : decode c = .instr i) : i.wf = true ∧ encode i = c := by
  obtain ⟨w, d⟩ := c
  obtain ⟨h0, h1, h⟩ := decode_eq_instr.1 h
  simp only [decodeLoad_eq_instr, decodeDecode_eq_instr, decodeEncode_eq_instr, decodeNoData_eq_instr,
    decodeReadEnum_eq_instr, decodeUnpack_eq_instr] at h
  rcases h with
    ⟨hop, hf, hb, bs, rfl, hl, rfl⟩ | ⟨hop, ha, hb, bs, rfl, hl, rfl⟩ | ⟨hop, ha, hb, num, den, rfl, hd, rfl⟩ |
    ⟨hop, ha, hb, rfl, rfl⟩ | ⟨hop, hf, hb, rfl, t, ha, rfl⟩ | ⟨hop, hb, rfl, rfl⟩ |
    ⟨hop, hf, rfl, ⟨ha, hb, rfl⟩ | ⟨ha, hb, rfl⟩ | ⟨ha, hb, rfl⟩ | ⟨ha, hb, rfl⟩ | ⟨ha, k, hb, rfl⟩⟩ |
    ⟨hop, hf, ha, hb, rfl, rfl⟩
  all_goals simp [Instr.wf, encode, encodeWord, encodeData, ofFields_eq_iff, *]

theorem decode_iff_encode {c : Command} {i : Instr} : decode c = .instr i ↔ i.wf = true ∧ encode i = c :=
  ⟨encode_decode, fun ⟨hwf, hc⟩ => hc ▸ decode_encode hwf⟩

/-- Settles O10, from the opcode table and the fields of an encoded word. -/
theorem decodeOfEncode : Obligations.DecodeOfEncode := fun _ => decode_encode

/-- Settles O11: the word is made up of its fields, and none of them is ignored. -/
theorem encodeOfDecode : Obligations.EncodeOfDecode := fun _ _ => encode_decode

/-- Settles O14: each word is the encoding of the instruction, and kind 3 is none. -/
theorem decodeExamples : Obligations.DecodeExamples :=
  ⟨decode_iff_encode.2 (by decide), decode_iff_encode.2 (by decide), decode_iff_encode.2 (by decide),
    decode_iff_encode.2 (by decide), decode_iff_encode.2 (by decide), decode_iff_encode.2 (by decide), by decide⟩

end Sys2Proof
end

section
/-! The pairs that decode are those that 30_encoding R56 does not list. -/

namespace Sys2Proof.Machine

theorem exists_tableId_code {a : BitVec 8} : (∃ t : TableId, a = t.code) ↔ a.toNat < 3 := by
  simp only [← tableId_ofCode_eq_some]
  unfold TableId.ofCode?
  split
  case h_4 => grind
  all_goals simp [*]

theorem exists_sensorKind_code {b : BitVec 8} : (∃ k : SensorKind, b = k.code) ↔ b.toNat < 3 := by
  simp only [← sensorKind_ofCode_eq_some]
  unfold SensorKind.ofCode?
  split
  case h_4 => grind
  all_goals simp [*]

section Parts
variable {d : Data} {a b : BitVec 8}

theorem exists_decodeLoad (width : Nat) : (∃ i, decodeLoad a d = .instr i) ↔ DataFits 1 a.toNat width d := by
  cases d <;> simp [DataFits]

theorem exists_decodeDecode (n : Nat) {fmt : Fmt} :
    (∃ i, decodeDecode fmt d = .instr i) ↔ DataFits 2 n fmt.width d := by
  cases d <;> simp [DataFits]

theorem exists_decodeEncode (n width : Nat) {fmt : Fmt} :
    (∃ i, decodeEncode fmt d = .instr i) ↔ DataFits 3 n width d := by
  cases d <;> simp [DataFits]

theorem exists_decodeNoData {j : Instr} : (∃ i, decodeNoData d j = .instr i) ↔ d = .bytes [] := by
  simp

theorem exists_decodeReadEnum : (∃ i, decodeReadEnum a d = .instr i) ↔ a.toNat < 3 ∧ d = .bytes [] := by
  simp only [decodeReadEnum_eq_instr, ← exists_tableId_code]
  grind

theorem exists_decodeUnpack : (∃ i, decodeUnpack a b d = .instr i) ↔
    a.toNat < 5 ∧ (if a.toNat = 4 then b.toNat < 3 else b.toNat = 0) ∧ d = .bytes [] := by
  simp only [decodeUnpack_eq_instr, ← exists_sensorKind_code, exists_and_left, exists_or, ← BitVec.toNat_inj (x := a)]
  have hb : b = 0#8 ↔ b.toNat = 0 := BitVec.toNat_inj.symm
  by_cases h4 : a.toNat = 4
  · simp [h4, and_comm]
  · simp [h4, hb]
    grind

/-- The opcodes from 4 on take no DATA (30_encoding R49). -/
theorem dataFits_noData {op n width : Nat} (h : 4 ≤ op) : DataFits op n width d ↔ d = .bytes [] := by
  have : op ≠ 1 ∧ op ≠ 2 ∧ op ≠ 3 := by omega
  cases d <;> simp [DataFits, this, h]

end Parts

/-- R56 in the fields' own names. -/
theorem illegalPair_iff {w : CmdWord} {d : Data} : IllegalPair w d ↔
    w.op.toNat = 0 ∨ 9 ≤ w.op.toNat ∨ w.rsv0 ≠ 0 ∨ w.rsv1 ≠ 0 ∨
    (w.fmtBits.toNat ≠ 0 ∧ (w.op.toNat = 1 ∨ w.op.toNat = 5 ∨ w.op.toNat = 7 ∨ w.op.toNat = 8)) ∨
    (w.a.toNat ≠ 0 ∧ (w.op.toNat = 2 ∨ w.op.toNat = 3 ∨ w.op.toNat = 4 ∨ w.op.toNat = 8)) ∨
    (w.b.toNat ≠ 0 ∧ ¬(w.op.toNat = 7 ∧ w.a.toNat = 4)) ∨
    (w.op.toNat = 5 ∧ 3 ≤ w.a.toNat) ∨ (w.op.toNat = 7 ∧ 5 ≤ w.a.toNat) ∨
    (w.op.toNat = 7 ∧ w.a.toNat = 4 ∧ 3 ≤ w.b.toNat) ∨
    ¬DataFits w.op.toNat w.a.toNat w.fmt.width d := Iff.rfl

/-- Opcode by opcode, the row of the opcode table asks for what R56 leaves over. -/
theorem decodes_iff_legal {w : CmdWord} {d : Data} : (∃ i, decode ⟨w, d⟩ = .instr i) ↔ ¬IllegalPair w d := by
  rw [illegalPair_iff]
  simp only [decode_eq_instr, exists_and_left, exists_or, exists_decodeLoad w.fmt.width, exists_decodeDecode w.a.toNat,
    exists_decodeEncode w.a.toNat w.fmt.width, exists_decodeNoData, exists_decodeReadEnum, exists_decodeUnpack,
    ← BitVec.toNat_inj (x := w.op), ← BitVec.toNat_inj (x := w.fmtBits), ← BitVec.toNat_inj (x := w.a),
    ← BitVec.toNat_inj (x := w.b)]
  have hop := w.op.isLt
  interval_cases w.op.toNat <;> simp [dataFits_noData]
  -- UNPACK, where the category decides what B may be
  split <;> simp [*, and_left_comm]

/-- Settles O12: a pair on R56's list does not decode, so the step raises ILLEGAL_COMMAND; the others decode. -/
theorem illegalPairsAnswered : Obligations.IllegalPairsAnswered := by
  refine fun w d => ⟨fun illegal s rest hin => ?_, decodes_iff_legal.2⟩
  rw [step_of_offer hin]
  cases hd : decode ⟨w, d⟩ with
  | instr i => exact absurd illegal (decodes_iff_legal.1 ⟨i, hd⟩)
  | illegal r => simp only [runOffer, hd]; rfl

end Sys2Proof.Machine
end

section
/-! The rows of spec/opcode_table.json: match, mask and constraint against the words of a row's instructions. -/

namespace Sys2Proof.Machine

/-- Every instruction's word and mnemonic are those of a well-formed one: DATA can be given the shape asked for. -/
theorem exists_wf_same_word (i : Instr) :
    ∃ j : Instr, j.wf = true ∧ encodeWord j = encodeWord i ∧ j.mnemonic = i.mnemonic := by
  cases i with
  | load len bytes => exact ⟨.load len (.replicate len.toNat 0), by simp [Instr.wf], rfl, rfl⟩
  | decode fmt bytes => exact ⟨.decode fmt (.replicate fmt.width 0), by simp [Instr.wf], rfl, rfl⟩
  | encode fmt num den => exact ⟨.encode fmt num 1, rfl, rfl, rfl⟩
  | _ => exact ⟨_, rfl, rfl, rfl⟩

theorem decodes_with_data_iff {w : CmdWord} {m : String} :
    (∃ d i, decode ⟨w, d⟩ = .instr i ∧ i.mnemonic = m) ↔ ∃ i, encodeWord i = w ∧ i.mnemonic = m := by
  constructor
  · rintro ⟨d, i, h, hm⟩
    exact ⟨i, congrArg Command.word (encode_decode h).2, hm⟩
  · rintro ⟨i, rfl, rfl⟩
    obtain ⟨j, hwf, hw, hm⟩ := exists_wf_same_word i
    exact ⟨encodeData j, j, hw ▸ decode_encode hwf, hm⟩

theorem exists_instr_iff {p : Instr → Prop} : (∃ i, p i) ↔
    (∃ len bytes, p (.load len bytes)) ∨ (∃ fmt bytes, p (.decode fmt bytes)) ∨
    (∃ fmt num den, p (.encode fmt num den)) ∨ (∃ fmt, p (.readSingle fmt)) ∨ (∃ t, p (.readEnum t)) ∨
    (∃ fmt n, p (.readStriped fmt n)) ∨ p .unpackAir ∨ p .unpackAirQuality ∨ p .unpackLight ∨ p .unpackSound ∨
    (∃ k, p (.unpackParticle k)) ∨ p .query := by
  constructor
  · rintro ⟨i, h⟩
    cases i <;> grind
  · grind

/-- Every value of FMT is a format's (30_encoding R45). -/
theorem exists_fmt_bits (f : BitVec 5) : ∃ fmt : Fmt, f = fmt.bits := ⟨fmtOfBits f, (bits_fmtOfBits f).symm⟩

/-- The codes 0 to 2, as the table asks for them: a mask that keeps bits 7:2, and the constraint that rules out 3. -/
theorem masked_code_iff (x : BitVec 8) : x.toNat < 3 ↔ x &&& 252#8 = 0#8 ∧ x ≠ 3#8 := by
  revert x; decide

/-- A mask and match, field by field. -/
theorem masked_eq_iff {w k m : CmdWord} : w &&& k = m ↔ w.rsv0 &&& k.rsv0 = m.rsv0 ∧ w.rsv1 &&& k.rsv1 = m.rsv1 ∧
    w.op &&& k.op = m.op ∧ w.fmtBits &&& k.fmtBits = m.fmtBits ∧ w.a &&& k.a = m.a ∧ w.b &&& k.b = m.b := by
  rw [word_eq_iff]
  simp only [CmdWord.rsv0, CmdWord.rsv1, CmdWord.op, CmdWord.fmtBits, CmdWord.a, CmdWord.b, BitVec.extractLsb'_and]

/-- The fields of a word written as a number, in the form in which `simp` evaluates them. -/
theorem literal_fields (n : Nat) :
    CmdWord.rsv0 (BitVec.ofNat 32 n) = (BitVec.ofNat 32 n).extractLsb' 4 4 ∧
    CmdWord.rsv1 (BitVec.ofNat 32 n) = (BitVec.ofNat 32 n).extractLsb' 13 3 ∧
    CmdWord.op (BitVec.ofNat 32 n) = (BitVec.ofNat 32 n).extractLsb' 0 4 ∧
    CmdWord.fmtBits (BitVec.ofNat 32 n) = (BitVec.ofNat 32 n).extractLsb' 8 5 ∧
    CmdWord.a (BitVec.ofNat 32 n) = (BitVec.ofNat 32 n).extractLsb' 16 8 ∧
    CmdWord.b (BitVec.ofNat 32 n) = (BitVec.ofNat 32 n).extractLsb' 24 8 := ⟨rfl, rfl, rfl, rfl, rfl, rfl⟩

/-- A mask keeps the whole of a field whose bits are all set in it. -/
theorem and_full : (∀ x : BitVec 3, x &&& 7#3 = x) ∧ (∀ x : BitVec 4, x &&& 15#4 = x) ∧
    (∀ x : BitVec 5, x &&& 31#5 = x) ∧ ∀ x : BitVec 8, x &&& 255#8 = x :=
  ⟨fun _ => BitVec.and_allOnes, fun _ => BitVec.and_allOnes, fun _ => BitVec.and_allOnes, fun _ => BitVec.and_allOnes⟩

/-- Settles O13: row by row, the mask asks of each field what the words of the row's instructions have there. -/
theorem opcodeTableRows : Obligations.OpcodeTableRows := by
  intro row hrow w
  rw [decodes_with_data_iff, exists_instr_iff, masked_eq_iff]
  simp only [opcodeTable, List.mem_cons, List.not_mem_nil, or_false] at hrow
  rcases hrow with rfl | rfl | rfl | rfl | rfl | rfl | rfl | rfl | rfl | rfl | rfl | rfl
  all_goals
    simp [rowConstraint, Instr.mnemonic, encodeWord, ofFields_eq_iff, literal_fields, and_full, exists_fmt_bits,
      exists_tableId_code, exists_sensorKind_code, masked_code_iff]
  -- READ_ENUM and UNPACK.PARTICLE, where the constraint stands beside the mask
  all_goals tauto

end Sys2Proof.Machine
end

section
/-! The payload items packed into bits (30_encoding R53, R54). -/

namespace Sys2Proof.Machine

theorem extract_eq_of_toNat {n k i : Nat} {x : BitVec n} {y : BitVec k} (h : x.toNat / 2 ^ i % 2 ^ k = y.toNat) :
    x.extractLsb' i k = y :=
  BitVec.eq_of_toNat_eq ((extract_toNat x i k).trans h)

theorem getLsbD_eq_of_toNat {n i : Nat} {x : BitVec n} {b : Bool} (h : x.toNat / 2 ^ i % 2 = b.toNat) :
    x.getLsbD i = b := by
  rw [← BitVec.testBit_toNat, Nat.testBit_eq_decide_div_mod_eq, h]
  cases b <;> rfl

section Packed
variable (v : Value)

theorem pack_toNat : v.pack.toNat = v.neg.toNat * 2 ^ 44 + v.rawSign.toNat * 2 ^ 43 + v.signed.toNat * 2 ^ 42 +
    v.fd.val * 2 ^ 40 + v.frac.toNat * 2 ^ 32 + v.mag.toNat := by
  have : v.pack.toNat = (0#19 ++ BitVec.ofBool v.neg ++ BitVec.ofBool v.rawSign ++ BitVec.ofBool v.signed ++
    (BitVec.ofFin v.fd : BitVec 2) ++ v.frac ++ v.mag).toNat := rfl
  rw [this]
  simp only [toNat_append_mul, BitVec.toNat_zero, BitVec.toNat_ofBool, BitVec.toNat_ofFin]
  omega

theorem pack_fields :
    v.pack.extractLsb' 0 32 = v.mag ∧ v.pack.extractLsb' 32 8 = v.frac ∧
    (v.pack.extractLsb' 40 2).toNat = v.fd.val ∧ v.pack.getLsbD 42 = v.signed ∧ v.pack.getLsbD 43 = v.rawSign ∧
    v.pack.getLsbD 44 = v.neg ∧ v.pack.extractLsb' 45 19 = 0 := by
  have hm := v.mag.isLt
  have hf := v.frac.isLt
  have hd := v.fd.isLt
  have hs := v.signed.toNat_lt
  have hr := v.rawSign.toNat_lt
  have hn := v.neg.toNat_lt
  have hp := pack_toNat v
  refine ⟨extract_eq_of_toNat ?_, extract_eq_of_toNat ?_, (extract_toNat _ _ _).trans ?_, getLsbD_eq_of_toNat ?_,
    getLsbD_eq_of_toNat ?_, getLsbD_eq_of_toNat ?_, extract_eq_of_toNat ?_⟩
  case refine_7 => change _ = 0; omega
  all_goals omega

/-- 40_codec R62: NEG is the sign of the numeric value, which a negative zero does not have. -/
theorem neg_iff_numeric : v.neg = true ↔ v.numeric < 0 := by
  have hm : (0 : Rat) ≤ v.mag.toNat := Nat.cast_nonneg _
  have hf : (0 : Rat) ≤ v.frac.toNat / 10 ^ v.fd.val := by positivity
  have zero : (v.mag.toNat : Rat) + v.frac.toNat / 10 ^ v.fd.val = 0 ↔ v.mag = 0 ∧ v.frac = 0 := by
    rw [add_eq_zero_iff_of_nonneg hm hf]
    simp [← BitVec.toNat_inj]
  unfold Value.numeric Value.neg
  cases v.rawSign with
  | false => simpa using add_nonneg hm hf
  | true =>
    have nonzero : (v.mag != 0 || v.frac != 0) = true ↔ ¬(v.mag = 0 ∧ v.frac = 0) := by simp; tauto
    simp only [if_true, Bool.true_and, nonzero, ← zero, neg_one_mul, neg_lt_zero]
    exact (add_nonneg hm hf).lt_iff_ne'.symm

end Packed

/-- Settles O23: each field is read back from the packed word's number, and NEG is the numeric value's sign. -/
theorem valuePacking : Obligations.ValuePacking := by
  refine ⟨fun fmt bytes => ⟨?_, ?_, rfl, rfl⟩, fun v => ?_⟩
  · intro unsigned
    simp [decodeValue, decodeParts, unsigned]
  · intro noFraction
    simp [decodeValue, decodeParts, noFraction]
  · obtain ⟨mag, frac, fd, signed, rawSign, neg, above⟩ := pack_fields v
    exact ⟨mag, frac, fd, signed, rawSign, by rw [neg, neg_iff_numeric], above⟩

/-- Settles O24: a VARIANT's wire form is two fields side by side, and the codes are those of the tables. -/
theorem itemCodes : Obligations.ItemCodes := by
  refine ⟨fun t v => ⟨BitVec.extractLsb'_append_eq_right, ?_⟩, by decide, fun t => ?_, rfl, rfl⟩
  · have table : (variantWire t v).extractLsb' 8 2 = t.code.setWidth 2 := BitVec.extractLsb'_append_eq_left
    rw [table]
    cases t <;> rfl
  · cases t <;> decide

end Sys2Proof.Machine
end

section
/-! Little-endian bytes: a number and its bytes, both ways, and the top bit of the last byte (00_scope R9,
40_codec R66). -/

namespace Sys2Proof.Machine

theorem toLe_succ (n m : Nat) : toLe (n + 1) m = BitVec.ofNat 8 m :: toLe n (m / 256) := rfl

@[simp] theorem toLe_length (n m : Nat) : (toLe n m).length = n := by
  induction n generalizing m with
  | zero => rfl
  | succ n ih => simp [toLe, ih]

/-- Byte k of a number is (m >> 8k) AND 0xFF. -/
theorem toLe_getElem? {n k : Nat} (m : Nat) (hk : k < n) : (toLe n m)[k]? = some (BitVec.ofNat 8 (m >>> (8 * k))) := by
  induction n generalizing m k with
  | zero => omega
  | succ n ih =>
    cases k with
    | zero => rfl
    | succ k =>
      rw [toLe, List.getElem?_cons_succ, ih _ (by omega), Nat.mul_succ, Nat.add_comm, Nat.shiftRight_add,
        Nat.shiftRight_eq_div_pow m 8]

theorem le_lt (bs : List Byte) : le bs < 256 ^ bs.length := by
  induction bs with
  | nil => decide
  | cons b bs ih =>
    have := b.isLt
    rw [le, List.length_cons, Nat.pow_succ]
    omega

theorem le_toLe {n m : Nat} (hm : m < 256 ^ n) : le (toLe n m) = m := by
  induction n generalizing m with
  | zero => rw [toLe, le]; omega
  | succ n ih =>
    rw [toLe, le, ih (Nat.div_lt_of_lt_mul (by rwa [← Nat.pow_succ'])), BitVec.toNat_ofNat]
    omega

theorem toLe_le (bs : List Byte) : toLe bs.length (le bs) = bs := by
  induction bs with
  | nil => rfl
  | cons b bs ih =>
    have hb := b.isLt
    have head : BitVec.ofNat 8 (le (b :: bs)) = b := BitVec.eq_of_toNat_eq (by rw [BitVec.toNat_ofNat, le]; omega)
    have tail : le (b :: bs) / 256 = le bs := by rw [le]; omega
    rw [List.length_cons, toLe, head, tail, ih]

/-- The first n bytes' number as a sum over the bytes. -/
theorem le_take_eq_sum (bs : List Byte) (n : Nat) :
    le (bs.take n) = ∑ k ∈ Finset.range n, (bs.getD k 0).toNat * 256 ^ k := by
  induction n generalizing bs with
  | zero => rfl
  | succ n ih =>
    cases bs with
    | nil => simp [le]
    | cons b bs =>
      rw [List.take_succ_cons, le, ih, Finset.sum_range_succ', Finset.mul_sum, Nat.add_comm]
      simp [Nat.pow_succ', Nat.mul_left_comm]

/-- Bit 8k + 7 of a number is the top bit of its byte k. -/
theorem le_testBit_top (bs : List Byte) (k : Nat) : (le bs).testBit (8 * k + 7) = (bs.getD k 0).msb := by
  induction bs generalizing k with
  | nil => simp [le]
  | cons b bs ih =>
    rw [le, Nat.add_comm, show 256 = 2 ^ 8 from rfl, Nat.testBit_two_pow_mul_add _ b.isLt]
    cases k with
    | zero => simp [BitVec.msb_eq_getLsbD_last, BitVec.testBit_toNat]
    | succ k =>
      have shifted : 8 * (k + 1) + 7 - 8 = 8 * k + 7 := by omega
      rw [if_neg (by omega), shifted, ih, List.getD_cons_succ]

/-- OR with 0x80 in the last byte adds the number's top bit, where it is clear (40_codec R66). -/
theorem modify_top_toLe {n m : Nat} (hm : m < 2 ^ (8 * n + 7)) :
    (toLe (n + 1) m).modify n (· ||| 0x80) = toLe (n + 1) (m + 2 ^ (8 * n + 7)) := by
  induction n generalizing m with
  | zero =>
    have top : ∀ m < 128, BitVec.ofNat 8 m ||| 0x80 = BitVec.ofNat 8 (m + 128) := by decide
    simpa [toLe] using top m hm
  | succ n ih =>
    have pow : 2 ^ (8 * (n + 1) + 7) = 256 * 2 ^ (8 * n + 7) := by rw [Nat.mul_succ]; ring
    have low : BitVec.ofNat 8 (m + 2 ^ (8 * (n + 1) + 7)) = BitVec.ofNat 8 m :=
      BitVec.eq_of_toNat_eq (by simp only [BitVec.toNat_ofNat]; omega)
    have high : (m + 2 ^ (8 * (n + 1) + 7)) / 256 = m / 256 + 2 ^ (8 * n + 7) := by omega
    rw [toLe_succ (n + 1) m, toLe_succ (n + 1) (m + _), low, high, List.modify_succ_cons, ih (by omega)]

end Sys2Proof.Machine
end

section
/-! The bytes of a format: what DECODE reads out of them and what ENCODE packs into them, each the other's inverse
(40_codec R60, R66, R69). -/

namespace Sys2Proof.Machine

/-- The first magnitude the integer bytes of a format cannot hold (40_codec R65, R70). -/
def capacity (fmt : Fmt) : Nat := if fmt.signed then 2 ^ (8 * fmt.ib - 1) else 2 ^ (8 * fmt.ib)

theorem capacity_of_signed {fmt : Fmt} (h : fmt.signed = true) : capacity fmt = 2 ^ (8 * fmt.ib - 1) := if_pos h

theorem capacity_of_unsigned {fmt : Fmt} (h : fmt.signed = false) : capacity fmt = 2 ^ (8 * fmt.ib) := by
  simp [capacity, h]

theorem capacity_pos (fmt : Fmt) : 0 < capacity fmt := by
  unfold capacity; split <;> positivity

/-- The integer bytes hold twice a signed format's capacity: the sign flag is their top bit. -/
theorem two_mul_half (fmt : Fmt) : 2 ^ (8 * fmt.ib) = 2 * 2 ^ (8 * fmt.ib - 1) := by
  rw [← Nat.pow_succ']; rfl

theorem capacity_le (fmt : Fmt) : capacity fmt ≤ 2 ^ 32 := by
  have bytes : 2 ^ (8 * fmt.ib) ≤ 2 ^ 32 := Nat.pow_le_pow_right (by decide) (by unfold Fmt.ib; omega)
  have := two_mul_half fmt
  unfold capacity; split <;> omega

section Decode
variable (fmt : Fmt) (bytes : List Byte)

theorem le_take_lt : le (bytes.take fmt.ib) < 2 ^ (8 * fmt.ib) := by
  calc le (bytes.take fmt.ib) < 256 ^ (bytes.take fmt.ib).length := le_lt _
    _ ≤ 256 ^ fmt.ib := Nat.pow_le_pow_right (by decide) (List.length_take_le ..)
    _ = 2 ^ (8 * fmt.ib) := by rw [Nat.pow_mul]

/-- The magnitude is what the integer bytes hold besides the sign flag. -/
theorem decodeValue_mag : (decodeValue fmt bytes).mag.toNat = le (bytes.take fmt.ib) % capacity fmt := by
  have raw := le_take_lt fmt bytes
  have mag : (decodeValue fmt bytes).mag = BitVec.ofNat 32 (le (bytes.take fmt.ib) % capacity fmt) := by
    cases hs : fmt.signed with
    | true => simp [decodeValue, decodeParts, slice, hs, capacity_of_signed hs]
    | false => simp [decodeValue, decodeParts, slice, hs, capacity_of_unsigned hs, Nat.mod_eq_of_lt raw]
  have fits : le (bytes.take fmt.ib) % capacity fmt < 2 ^ 32 :=
    (Nat.mod_lt _ (capacity_pos fmt)).trans_le (capacity_le fmt)
  rw [mag, BitVec.toNat_ofNat, Nat.mod_eq_of_lt fits]

theorem decodeValue_mag_lt : (decodeValue fmt bytes).mag.toNat < capacity fmt :=
  decodeValue_mag fmt bytes ▸ Nat.mod_lt _ (capacity_pos fmt)

/-- The sign flag is set where the integer bytes reach the capacity, so never in an unsigned format. -/
theorem decodeValue_rawSign : (decodeValue fmt bytes).rawSign = decide (capacity fmt ≤ le (bytes.take fmt.ib)) := by
  have raw := le_take_lt fmt bytes
  cases hs : fmt.signed with
  | true =>
    rw [two_mul_half] at raw
    have top : le (bytes.take fmt.ib) / 2 ^ (8 * fmt.ib - 1) % 2 = 1 ↔
        2 ^ (8 * fmt.ib - 1) ≤ le (bytes.take fmt.ib) := by
      have quotient : le (bytes.take fmt.ib) / 2 ^ (8 * fmt.ib - 1) < 2 := Nat.div_lt_of_lt_mul (by omega)
      rw [Nat.mod_eq_of_lt quotient, ← Nat.one_le_div_iff (by positivity)]
      omega
    simp [decodeValue, decodeParts, slice, hs, capacity_of_signed hs, Nat.testBit_eq_decide_div_mod_eq, top]
  | false => simp [decodeValue, decodeParts, hs, capacity_of_unsigned hs, raw]

/-- The sign flag is the top bit of the last integer byte. -/
theorem decodeValue_rawSign_eq_msb :
    (decodeValue fmt bytes).rawSign = (fmt.signed && (bytes.getD (fmt.ib - 1) 0).msb) := by
  have byte : (bytes.take fmt.ib).getD (fmt.ib - 1) 0 = bytes.getD (fmt.ib - 1) 0 := by
    have last : fmt.ib - 1 < fmt.ib := by unfold Fmt.ib; omega
    rw [List.getD_eq_getElem?_getD, List.getElem?_take_of_lt last, List.getD_eq_getElem?_getD]
  rw [← byte, ← le_testBit_top]
  rfl

theorem signed_of_decodeValue_rawSign (h : (decodeValue fmt bytes).rawSign = true) : fmt.signed = true :=
  (Bool.and_eq_true_iff.1 h).1

/-- Magnitude and sign flag make up the integer bytes. -/
theorem decodeValue_integer :
    (decodeValue fmt bytes).mag.toNat + (if (decodeValue fmt bytes).rawSign then capacity fmt else 0) =
      le (bytes.take fmt.ib) := by
  have raw : le (bytes.take fmt.ib) < 2 * capacity fmt := by
    have := le_take_lt fmt bytes
    have := two_mul_half fmt
    unfold capacity; split <;> omega
  rw [decodeValue_mag, decodeValue_rawSign]
  by_cases h : capacity fmt ≤ le (bytes.take fmt.ib)
  · rw [decide_eq_true h, if_pos rfl, Nat.mod_eq_sub_mod h, Nat.mod_eq_of_lt (by omega), Nat.sub_add_cancel h]
  · rw [decide_eq_false h, if_neg Bool.false_ne_true, Nat.mod_eq_of_lt (by omega), Nat.add_zero]

theorem decodeValue_frac : (decodeValue fmt bytes).frac = if fmt.fd.val > 0 then bytes.getD fmt.ib 0 else 0 := by
  simp only [decodeValue, decodeParts]; split <;> rfl

end Decode

/-- The sign, the integer and the fraction that a VALUE holds. -/
def Value.toSplit (v : Value) : Split := ⟨v.rawSign, v.mag.toNat, v.frac.toNat⟩

/-- The numbers whose bytes a format can hold: those of none of the cases of 40_codec R65, with a fraction of fd
digits. -/
structure Fits (fmt : Fmt) (p : Split) : Prop where
  sign : p.neg = true → fmt.signed = true
  int : p.int < capacity fmt
  frac : p.frac < min 256 (10 ^ fmt.fd.val)

theorem packNumber_length (fmt : Fmt) (p : Split) : (packNumber fmt p).length = fmt.width := by
  unfold packNumber Fmt.width Fmt.fractionBytes
  rw [List.length_append, List.length_modify, toLe_length]
  split <;> rfl

/-- Byte k of the integer bytes that ENCODE packs (40_codec R66). -/
theorem packNumber_getD_int (fmt : Fmt) (p : Split) {k : Nat} (hk : k < fmt.ib) :
    ((packNumber fmt p).getD k 0).toNat = (p.int >>> (8 * k)) &&& 0xFF |||
      (if k = fmt.ib - 1 ∧ fmt.signed = true ∧ p.neg = true then 0x80 else 0) := by
  have low : (BitVec.ofNat 8 (p.int >>> (8 * k))).toNat = p.int >>> (8 * k) &&& 0xFF := by
    rw [BitVec.toNat_ofNat]
    exact (Nat.and_two_pow_sub_one_eq_mod _ 8).symm
  rw [packNumber, List.getD_append _ _ _ _ (by simpa using hk), List.getD_eq_getElem?_getD, List.getElem?_modify,
    toLe_getElem? p.int hk, ← low]
  by_cases last : fmt.ib - 1 = k
  · by_cases flag : fmt.signed = true ∧ p.neg = true
    · rw [if_pos ⟨last.symm, flag⟩]
      simp [last, flag]
    · rw [if_neg fun h => flag h.2, Nat.or_zero]
      simp [last, flag]
  · rw [if_neg fun h => last h.1.symm, Nat.or_zero]
    simp [last]

/-- The byte after them is the fraction. -/
theorem packNumber_getD_frac {fmt : Fmt} (p : Split) (hd : 0 < fmt.fd.val) :
    (packNumber fmt p).getD fmt.ib 0 = BitVec.ofNat 8 p.frac := by
  rw [packNumber, if_pos hd, List.getD_append_right _ _ _ _ (by simp)]
  simp

/-- The packed bytes are the number's with the sign flag, and the fraction byte where there is one. -/
theorem packNumber_eq {fmt : Fmt} {p : Split} (sign : p.neg = true → fmt.signed = true) (int : p.int < capacity fmt) :
    packNumber fmt p = toLe fmt.ib (p.int + if p.neg then capacity fmt else 0) ++
      if fmt.fd.val > 0 then [BitVec.ofNat 8 p.frac] else [] := by
  unfold packNumber
  congr 1
  cases hn : p.neg with
  | false =>
    have keep : (fun b : Byte => if (fmt.signed && false) = true then b ||| 0x80 else b) = id := by simp [funext_iff]
    rw [keep, List.modify_id]
    rfl
  | true =>
    have bits : capacity fmt = 2 ^ (8 * fmt.ibm1.val + 7) := capacity_of_signed (sign hn)
    rw [bits] at int ⊢
    simpa [sign hn, Fmt.ib] using modify_top_toLe int

/-- A flag added to a magnitude as the capacity above it can be told from the magnitude. -/
theorem sign_magnitude_inj {c m n : Nat} {a b : Bool} (hm : m < c) (hn : n < c)
    (h : m + (if a then c else 0) = n + (if b then c else 0)) : a = b ∧ m = n := by
  cases a <;> cases b <;> simp at h ⊢ <;> omega

/-- DECODE of packed bytes gives back what was packed (40_codec R69). -/
theorem toSplit_decodeValue_packNumber {fmt : Fmt} {p : Split} (h : Fits fmt p) :
    (decodeValue fmt (packNumber fmt p)).toSplit = p := by
  obtain ⟨sign, int, frac⟩ := h
  obtain ⟨hf, hscale⟩ := lt_min_iff.1 frac
  have raw : p.int + (if p.neg then capacity fmt else 0) < 256 ^ fmt.ib := by
    have pow : 256 ^ fmt.ib = 2 ^ (8 * fmt.ib) := (Nat.pow_mul 2 8 fmt.ib).symm
    have := two_mul_half fmt
    cases hn : p.neg with
    | true => rw [capacity_of_signed (sign hn)] at int ⊢; rw [if_pos rfl]; omega
    | false => unfold capacity at int; split at int <;> (rw [if_neg Bool.false_ne_true]; omega)
  have take : (packNumber fmt p).take fmt.ib = toLe fmt.ib (p.int + if p.neg then capacity fmt else 0) := by
    rw [packNumber_eq sign int]
    exact List.take_left' (toLe_length ..)
  have integer := decodeValue_integer fmt (packNumber fmt p)
  have mag := decodeValue_mag_lt fmt (packNumber fmt p)
  rw [take, le_toLe raw] at integer
  have last : (decodeValue fmt (packNumber fmt p)).frac.toNat = p.frac := by
    rw [decodeValue_frac, packNumber_eq sign int]
    by_cases hd : fmt.fd.val > 0
    · simp [hd, Nat.mod_eq_of_lt hf]
    · have : p.frac = 0 := by simpa [Nat.eq_zero_of_not_pos hd] using hscale
      simp [hd, this]
  obtain ⟨neg, same⟩ := sign_magnitude_inj mag int integer
  rw [Value.toSplit, neg, same, last]

/-- Packing what DECODE reads out of bytes gives back the bytes (40_codec R69). -/
theorem packNumber_toSplit_decodeValue {fmt : Fmt} {b : List Byte} (hb : b.length = fmt.width) :
    packNumber fmt (decodeValue fmt b).toSplit = b := by
  have take : (b.take fmt.ib).length = fmt.ib := by rw [List.length_take, hb, Fmt.width]; omega
  have drop : (if fmt.fd.val > 0 then [BitVec.ofNat 8 (decodeValue fmt b).frac.toNat] else []) = b.drop fmt.ib := by
    rw [decodeValue_frac]
    split
    · have hib : fmt.ib < b.length := by rw [hb, Fmt.width, Fmt.fractionBytes, if_pos ‹_›]; omega
      have rest : b.drop (fmt.ib + 1) = [] :=
        List.drop_eq_nil_of_le (by rw [hb, Fmt.width, Fmt.fractionBytes, if_pos ‹_›])
      rw [List.drop_eq_getElem_cons hib, rest]
      simp [hib]
    · exact (List.drop_eq_nil_of_le (by rw [hb, Fmt.width, Fmt.fractionBytes, if_neg ‹_›]; omega)).symm
  rw [packNumber_eq (signed_of_decodeValue_rawSign fmt b) (decodeValue_mag_lt fmt b)]
  change toLe fmt.ib ((decodeValue fmt b).mag.toNat + if (decodeValue fmt b).rawSign then capacity fmt else 0) ++
    (if fmt.fd.val > 0 then [BitVec.ofNat 8 (decodeValue fmt b).frac.toNat] else []) = b
  have ints := toLe_le (b.take fmt.ib)
  rw [take] at ints
  rw [decodeValue_integer, ints, drop, List.take_append_drop]

end Sys2Proof.Machine
end

section
/-! The numbers of the codec: the numeric value of a VALUE, the split of q = NUM/DEN, and the ranges of R65
(40_codec R62, R64, R65). -/

namespace Sys2Proof.Machine

theorem numeric_eq (v : Value) : v.numeric = (if v.rawSign then -1 else 1) * (v.scaled / 10 ^ v.fd.val : ℚ) := by
  have scale : (10 ^ v.fd.val : ℚ) ≠ 0 := by positivity
  rw [Value.numeric, Value.scaled]
  push_cast
  rw [add_div, mul_div_cancel_right₀ _ scale]

theorem abs_numeric (v : Value) : |v.numeric| = (v.scaled : ℚ) / 10 ^ v.fd.val := by
  have size : (0 : ℚ) ≤ v.scaled / 10 ^ v.fd.val := by positivity
  rw [numeric_eq]
  cases v.rawSign <;> simp [abs_of_nonneg size]

theorem numeric_nonneg {v : Value} (h : v.rawSign = false) : 0 ≤ v.numeric := by
  rw [numeric_eq, h, if_neg Bool.false_ne_true, one_mul]
  positivity

section Ranges
variable {fmt : Fmt} (bytes : List Byte) {m n : Nat}

/-- The size of a decoded value, from the greatest magnitude m, the scale n and a bound on the fraction byte. -/
theorem abs_decodeValue_le (hm : capacity fmt = m + 1) (hn : 10 ^ fmt.fd.val = n) {f : Nat}
    (hf : (decodeValue fmt bytes).frac.toNat ≤ f) : |(decodeValue fmt bytes).numeric| ≤ m + f / n := by
  have scale : ((10 : ℚ) ^ (decodeValue fmt bytes).fd.val) = n := by rw [← hn]; exact (Nat.cast_pow 10 _).symm
  have pos : (0 : ℚ) < n := by rw [← scale]; positivity
  have mag : ((decodeValue fmt bytes).mag.toNat : ℚ) ≤ m :=
    Nat.cast_le.2 (Nat.le_of_lt_succ ((decodeValue_mag_lt fmt bytes).trans_eq hm))
  have frac : ((decodeValue fmt bytes).frac.toNat : ℚ) ≤ f := Nat.cast_le.2 hf
  rw [abs_numeric, Value.scaled, scale, div_le_iff₀ pos, add_mul, div_mul_cancel₀ _ pos.ne']
  push_cast
  rw [scale]
  gcongr

/-- The two ranges of R71: with any fraction byte, and with one of fd digits. -/
theorem abs_decodeValue_ranges (hm : capacity fmt = m + 1) (hn : 10 ^ fmt.fd.val = n) {most small : ℚ}
    (hmost : (m + 255 / n : ℚ) ≤ most) (hsmall : (m + (n - 1) / n : ℚ) ≤ small) :
    |(decodeValue fmt bytes).numeric| ≤ most ∧
      ((decodeValue fmt bytes).frac.toNat < n → |(decodeValue fmt bytes).numeric| ≤ small) := by
  have any := abs_decodeValue_le bytes hm hn (f := 255) (Nat.le_of_lt_succ (decodeValue fmt bytes).frac.isLt)
  refine ⟨any.trans (by exact_mod_cast hmost), fun digits => ?_⟩
  have few := abs_decodeValue_le bytes hm hn (Nat.le_sub_one_of_lt digits)
  rw [Nat.cast_pred (Nat.zero_lt_of_lt digits)] at few
  exact few.trans hsmall

theorem decodeValue_nonneg (hs : fmt.signed = false) : 0 ≤ (decodeValue fmt bytes).numeric :=
  numeric_nonneg (by rw [decodeValue_rawSign_eq_msb, hs, Bool.false_and])

theorem decodeValue_ranges (hs : fmt.signed = false) (hm : capacity fmt = m + 1) (hn : 10 ^ fmt.fd.val = n)
    {most small : ℚ} (hmost : (m + 255 / n : ℚ) ≤ most) (hsmall : (m + (n - 1) / n : ℚ) ≤ small) :
    0 ≤ (decodeValue fmt bytes).numeric ∧ (decodeValue fmt bytes).numeric ≤ most ∧
      ((decodeValue fmt bytes).frac.toNat < n → (decodeValue fmt bytes).numeric ≤ small) := by
  have nonneg := decodeValue_nonneg bytes hs
  have ranges := abs_decodeValue_ranges bytes hm hn hmost hsmall
  rw [abs_of_nonneg nonneg] at ranges
  exact ⟨nonneg, ranges⟩

/-- The range of a plain-integer format (40_codec R72). -/
theorem decodeValue_integer_range (hs : fmt.signed = false) (hm : capacity fmt = m + 1) (hd : fmt.fd.val = 0) :
    0 ≤ (decodeValue fmt bytes).numeric ∧ (decodeValue fmt bytes).numeric ≤ m := by
  have frac : (decodeValue fmt bytes).frac.toNat ≤ 0 := by rw [decodeValue_frac, if_neg (by omega)]; rfl
  have size := abs_decodeValue_le bytes hm rfl frac
  rw [Nat.cast_zero, zero_div, add_zero] at size
  exact ⟨decodeValue_nonneg bytes hs, (le_abs_self _).trans size⟩

end Ranges

section Split
variable (fmt : Fmt) (num : Numerator) (den : Denominator)

theorem den_pos {den : Denominator} (h : den ≠ 0) : 0 < den.toNat :=
  Nat.pos_of_ne_zero fun h0 => h (BitVec.eq_of_toNat_eq h0)

theorem fractionPart_lt {den : Denominator} (h : den ≠ 0) : fractionPart fmt num den < 10 ^ fmt.fd.val :=
  Nat.div_lt_of_lt_mul (Nat.mul_lt_mul_of_pos_right (Nat.mod_lt _ (den_pos h)) (by positivity))

/-- M and F together are |q| × 10^fd rounded down. -/
theorem scaled_split {den : Denominator} (h : den ≠ 0) :
    integerPart num den * 10 ^ fmt.fd.val + fractionPart fmt num den =
      num.toInt.natAbs * 10 ^ fmt.fd.val / den.toNat := by
  unfold integerPart fractionPart
  generalize num.toInt.natAbs = a, 10 ^ fmt.fd.val = scale
  calc a / den.toNat * scale + a % den.toNat * scale / den.toNat
      = (den.toNat * (a / den.toNat * scale) + a % den.toNat * scale) / den.toNat :=
        (Nat.mul_add_div (den_pos h) _ _).symm
    _ = a * scale / den.toNat := by rw [← Nat.mul_assoc, ← Nat.add_mul, Nat.div_add_mod]

theorem abs_encodedNumber : |encodedNumber num den| = (num.toInt.natAbs : ℚ) / den.toNat := by
  rw [encodedNumber, abs_div, Nat.abs_cast, Nat.cast_natAbs, Int.cast_abs]

theorem encodedNumber_neg_iff {den : Denominator} (h : den ≠ 0) : encodedNumber num den < 0 ↔ num.toInt < 0 := by
  have hd : (0 : ℚ) < den.toNat := Nat.cast_pos.2 (den_pos h)
  rw [encodedNumber, div_lt_iff₀ hd, zero_mul, Int.cast_lt_zero]

/-- The floor of R69 is what M and F hold. -/
theorem floor_abs_encodedNumber {den : Denominator} (h : den ≠ 0) :
    ⌊|encodedNumber num den| * 10 ^ fmt.fd.val⌋ =
      ((integerPart num den * 10 ^ fmt.fd.val + fractionPart fmt num den : Nat) : ℤ) := by
  have ratio : |encodedNumber num den| * 10 ^ fmt.fd.val =
      ((num.toInt.natAbs * 10 ^ fmt.fd.val : Nat) : ℚ) / den.toNat := by
    rw [abs_encodedNumber, div_mul_eq_mul_div]; push_cast; rfl
  rw [ratio, Rat.floor_natCast_div_natCast, scaled_split fmt num h, Int.natCast_ediv]

theorem splitNumber_eq : splitNumber fmt num den =
    ⟨decide (num.toInt < 0), integerPart num den, fractionPart fmt num den⟩ := rfl

/-- The check of the model is R65's. -/
theorem rangeFails_iff : rangeFails fmt (splitNumber fmt num den) = true ↔ OutOfRange fmt num den := by
  rw [splitNumber_eq, rangeFails, OutOfRange]
  simp [or_assoc]

/-- A number in none of the cases of R65 fits. -/
theorem fits_of_not_outOfRange {den : Denominator} (h : den ≠ 0) (inRange : ¬OutOfRange fmt num den) :
    Fits fmt (splitNumber fmt num den) := by
  obtain ⟨sign, signed, unsigned, byte⟩ : ¬(num.toInt < 0 ∧ fmt.signed = false) ∧
      ¬(fmt.signed = true ∧ 2 ^ (8 * fmt.ib - 1) ≤ integerPart num den) ∧
      ¬(fmt.signed = false ∧ 2 ^ (8 * fmt.ib) ≤ integerPart num den) ∧
      ¬(0 < fmt.fd.val ∧ 256 ≤ fractionPart fmt num den) := by
    simpa only [OutOfRange, not_or] using inRange
  refine ⟨fun neg => ?_, ?_, lt_min ?_ (fractionPart_lt fmt num h)⟩
  · exact Bool.of_not_eq_false fun hs => sign ⟨of_decide_eq_true neg, hs⟩
  · cases hs : fmt.signed with
    | true => rw [capacity_of_signed hs]; exact Nat.lt_of_not_le fun large => signed ⟨hs, large⟩
    | false => rw [capacity_of_unsigned hs]; exact Nat.lt_of_not_le fun large => unsigned ⟨hs, large⟩
  · rcases Nat.eq_zero_or_pos fmt.fd.val with none | some
    · have := fractionPart_lt fmt num h
      rw [none] at this
      exact this.trans (by decide)
    · exact Nat.lt_of_not_le fun large => byte ⟨some, large⟩

/-- A number in one of the cases of R65 does not fit. -/
theorem not_outOfRange_of_fits (fits : Fits fmt (splitNumber fmt num den)) : ¬OutOfRange fmt num den := by
  obtain ⟨sign, int, frac⟩ := fits
  rintro (⟨neg, hs⟩ | ⟨hs, large⟩ | ⟨hs, large⟩ | ⟨-, large⟩)
  · rw [sign (decide_eq_true neg)] at hs; cases hs
  · rw [capacity_of_signed hs] at int; exact Nat.not_lt.2 large int
  · rw [capacity_of_unsigned hs] at int; exact Nat.not_lt.2 large int
  · exact Nat.not_lt.2 large (frac.trans_le (min_le_left ..))

/-- A number is split in one way into a multiple of the scale and a rest below it. -/
theorem digit_split_inj {scale m n x y : Nat} (hx : x < scale) (hy : y < scale)
    (h : m * scale + x = n * scale + y) : m = n ∧ x = y := by
  have parts {k z : Nat} (hz : z < scale) : (k * scale + z) / scale = k ∧ (k * scale + z) % scale = z :=
    (Nat.div_mod_unique (Nat.zero_lt_of_lt hz)).2 ⟨by ring, hz⟩
  obtain ⟨hm, hxm⟩ := parts (k := m) hx
  obtain ⟨hn, hyn⟩ := parts (k := n) hy
  rw [h] at hm hxm
  exact ⟨hm.symm.trans hn, hxm.symm.trans hyn⟩

/-- A number splits into what a VALUE of the same numeric value holds, where that is no negative zero and has a
fraction of fd digits. -/
theorem splitNumber_eq_toSplit {v : Value} {den : Denominator} (h : den ≠ 0) (hfd : v.fd = fmt.fd)
    (digits : v.frac.toNat < 10 ^ fmt.fd.val) (nonzero : ¬(v.rawSign = true ∧ v.mag = 0 ∧ v.frac = 0))
    (hq : encodedNumber num den = v.numeric) : splitNumber fmt num den = v.toSplit := by
  have scale : (0 : ℚ) < 10 ^ fmt.fd.val := by positivity
  have sign : decide (num.toInt < 0) = v.rawSign := by
    have neg : v.neg = v.rawSign := by
      unfold Value.neg
      cases hr : v.rawSign <;> simp_all
      tauto
    rw [← neg, Bool.eq_iff_iff, decide_eq_true_iff, ← encodedNumber_neg_iff num h, hq, neg_iff_numeric]
  have scaled : integerPart num den * 10 ^ fmt.fd.val + fractionPart fmt num den = v.scaled := by
    have floor := floor_abs_encodedNumber fmt num h
    rw [hq, abs_numeric, hfd, div_mul_cancel₀ _ scale.ne', Int.floor_natCast] at floor
    exact_mod_cast floor.symm
  rw [Value.scaled, hfd] at scaled
  obtain ⟨int, frac⟩ := digit_split_inj (fractionPart_lt fmt num h) digits scaled
  rw [splitNumber_eq, sign, int, frac, Value.toSplit]

end Split

/-- q rounded toward zero to fd digits (40_codec R70). -/
def towardZero (fd : Nat) (q : ℚ) : ℚ := (if q < 0 then -1 else 1) * ((⌊|q| * 10 ^ fd⌋ : ℚ) / 10 ^ fd)

section TowardZero
variable (fd : Nat) (q : ℚ)

theorem scale_pos : (0 : ℚ) < 10 ^ fd := by positivity

theorem floor_scaled_nonneg : (0 : ℚ) ≤ ⌊|q| * 10 ^ fd⌋ / 10 ^ fd :=
  div_nonneg (Int.cast_nonneg (Int.floor_nonneg.2 (by positivity))) (scale_pos fd).le

theorem abs_towardZero : |towardZero fd q| = (⌊|q| * 10 ^ fd⌋ : ℚ) / 10 ^ fd := by
  rw [towardZero, abs_mul, abs_of_nonneg (floor_scaled_nonneg fd q)]
  split <;> simp

theorem abs_towardZero_le : |towardZero fd q| ≤ |q| := by
  rw [abs_towardZero, div_le_iff₀ (scale_pos fd)]
  exact Int.floor_le _

theorem sub_ulp_lt_abs_towardZero : |q| - 1 / 10 ^ fd < |towardZero fd q| := by
  have up := Int.lt_floor_add_one (|q| * 10 ^ fd)
  rw [abs_towardZero, lt_div_iff₀ (scale_pos fd), sub_mul, one_div_mul_cancel (scale_pos fd).ne']
  linarith

theorem towardZero_sign :
    towardZero fd q = 0 ∨ (towardZero fd q < 0 ∧ q < 0) ∨ (0 < towardZero fd q ∧ 0 < q) := by
  have size := floor_scaled_nonneg fd q
  have le := abs_towardZero_le fd q
  rcases lt_trichotomy q 0 with neg | zero | pos
  · have sign : towardZero fd q ≤ 0 := by rw [towardZero, if_pos neg]; linarith
    exact sign.eq_or_lt.imp id fun h => .inl ⟨h, neg⟩
  · exact .inl (abs_nonpos_iff.1 (by simpa [zero] using le))
  · have sign : 0 ≤ towardZero fd q := by rw [towardZero, if_neg pos.not_gt]; linarith
    exact sign.eq_or_lt.imp Eq.symm fun h => .inr ⟨h, pos⟩

theorem towardZero_eq_iff : towardZero fd q = q ↔ ∃ z : ℤ, q * 10 ^ fd = z := by
  have scale := (scale_pos fd).ne'
  constructor
  · intro h
    rw [← h, towardZero, mul_assoc, div_mul_cancel₀ _ scale]
    split
    · exact ⟨-⌊|q| * 10 ^ fd⌋, by push_cast; ring⟩
    · exact ⟨⌊|q| * 10 ^ fd⌋, one_mul _⟩
  · rintro ⟨z, hz⟩
    have whole : (⌊|q| * 10 ^ fd⌋ : ℚ) = |q| * 10 ^ fd := by
      have abs_whole : |q| * 10 ^ fd = (|z| : ℤ) := by rw [Int.cast_abs, ← hz, abs_mul, abs_of_pos (scale_pos fd)]
      rw [abs_whole, Int.floor_intCast]
    rw [towardZero, whole, mul_div_cancel_right₀ _ scale]
    split
    · rw [abs_of_neg ‹_›]; ring
    · rw [abs_of_nonneg (not_lt.1 ‹_›), one_mul]

end TowardZero

/-- A VALUE that holds the split of q has the numeric value q rounded toward zero. -/
theorem numeric_of_toSplit {fmt : Fmt} {num : Numerator} {den : Denominator} {v : Value} (h : den ≠ 0)
    (hfd : v.fd = fmt.fd) (hv : v.toSplit = splitNumber fmt num den) :
    v.numeric = towardZero fmt.fd.val (encodedNumber num den) := by
  rw [splitNumber_eq] at hv
  obtain ⟨sign, int, frac⟩ := Split.mk.inj hv
  rw [numeric_eq, towardZero, floor_abs_encodedNumber fmt num h, Value.scaled, sign, int, frac, hfd]
  simp [encodedNumber_neg_iff num h]

end Sys2Proof.Machine
end

section
/-! What the codec commands answer (40_codec R63, R65, R67). -/

namespace Sys2Proof.Machine

theorem exec_decode {fmt : Fmt} {bytes : List Byte} (h : bytes.length = fmt.width) (s : State) :
    exec (.decode fmt bytes) s = .next (s.answered .ok (.value (decodeValue fmt bytes))) := if_pos h

theorem exec_decode_illegal {fmt : Fmt} {bytes : List Byte} (h : bytes.length ≠ fmt.width) (s : State) :
    exec (.decode fmt bytes) s = .next (s.answered .illegalCommand .empty) := if_neg h

theorem lastResponse_answered (s : State) (e : Err) (p : Payload) : (s.answered e p).lastResponse = some ⟨e, p⟩ :=
  lastResponse_answer s e p

section Encode
variable (fmt : Fmt) (num : Numerator) {den : Denominator} (s : State)

theorem exec_encode_illegal : exec (.encode fmt num 0) s = .next (s.answered .illegalCommand .empty)  := rfl

theorem exec_encode_outOfRange (h : den ≠ 0) (out : OutOfRange fmt num den) :
    exec (.encode fmt num den) s = .next (s.answered .encodingRange .empty) := by
  rw [exec, execEncode, if_neg h, encodeNumber, if_pos ((rangeFails_iff fmt num den).2 out)]
  rfl

theorem exec_encode_inRange (h : den ≠ 0) (inRange : ¬OutOfRange fmt num den) :
    exec (.encode fmt num den) s = .next (s.answered .ok (.bytes (packNumber fmt (splitNumber fmt num den)))) := by
  rw [exec, execEncode, if_neg h, encodeNumber, if_neg (inRange ∘ (rangeFails_iff fmt num den).1)]
  rfl

/-- An ENCODE that answered bytes had a number in range, and the bytes are its packing. -/
theorem of_encode_ok {fmt : Fmt} {num : Numerator} {s t : State} {b : List Byte}
    (hx : exec (.encode fmt num den) s = .next t) (hr : t.lastResponse = some ⟨.ok, .bytes b⟩) :
    den ≠ 0 ∧ ¬OutOfRange fmt num den ∧ b = packNumber fmt (splitNumber fmt num den) := by
  by_cases h : den = 0
  · subst h
    cases (exec_encode_illegal fmt num s).symm.trans hx
    rw [lastResponse_answered] at hr
    cases hr
  · by_cases out : OutOfRange fmt num den
    · cases (exec_encode_outOfRange fmt num s h out).symm.trans hx
      rw [lastResponse_answered] at hr
      cases hr
    · cases (exec_encode_inRange fmt num s h out).symm.trans hx
      rw [lastResponse_answered] at hr
      cases hr
      exact ⟨h, out, rfl⟩

end Encode

/-- A codec command answers the same from every state, and changes nothing. -/
theorem codec_answers {i : Instr}
    (codec : (∃ fmt bytes, i = .decode fmt bytes) ∨ ∃ fmt num den, i = .encode fmt num den) :
    ∃ e p, ∀ s, exec i s = .next (s.answered e p) := by
  rcases codec with ⟨fmt, bytes, rfl⟩ | ⟨fmt, num, den, rfl⟩
  · by_cases h : bytes.length = fmt.width
    · exact ⟨_, _, exec_decode h⟩
    · exact ⟨_, _, exec_decode_illegal h⟩
  · by_cases h : den = 0
    · exact ⟨_, _, h ▸ exec_encode_illegal fmt num⟩
    · by_cases out : OutOfRange fmt num den
      · exact ⟨_, _, fun s => exec_encode_outOfRange fmt num s h out⟩
      · exact ⟨_, _, fun s => exec_encode_inRange fmt num s h out⟩

end Sys2Proof.Machine
end

section
/-! The statements about the codec (40_codec). -/

namespace Sys2Proof.Machine

/-- Settles O20: what is packed is read back, and the numeric value of a split is q rounded toward zero. -/
theorem decodeAfterEncode : Obligations.DecodeAfterEncode := by
  intro fmt num den s t b hx hr
  obtain ⟨hden, inRange, rfl⟩ := of_encode_ok hx hr
  have fits := fits_of_not_outOfRange fmt num hden inRange
  have back := toSplit_decodeValue_packNumber fits
  have value := numeric_of_toSplit hden rfl back
  obtain ⟨sign, int, frac⟩ := Split.mk.inj back
  refine ⟨_, exec_decode (packNumber_length ..) t, int, frac, ?_, ?_, ?_⟩
  · rw [floor_abs_encodedNumber fmt num hden, int, frac]
    have scale := (scale_pos fmt.fd.val).ne'
    rw [eq_div_iff scale, add_mul, div_mul_cancel₀ _ scale]
    push_cast
    rfl
  · rw [sign, encodedNumber_neg_iff num hden]
    rw [decide_eq_true_iff]
    exact ⟨fun neg => ⟨fits.sign (decide_eq_true neg), neg⟩, And.right⟩
  · simp only [value]
    exact ⟨sub_ulp_lt_abs_towardZero .., abs_towardZero_le .., towardZero_sign .., towardZero_eq_iff ..⟩

/-- Settles O21: the number splits into what the VALUE holds, which fits, and packing that gives back the bytes. -/
theorem encodeAfterDecode : Obligations.EncodeAfterDecode := by
  intro fmt b num den s hb hden v digits nonzero hq
  have split : splitNumber fmt num den = v.toSplit :=
    splitNumber_eq_toSplit fmt num hden rfl (digits.trans_le (min_le_right ..)) nonzero hq
  have fits : Fits fmt (splitNumber fmt num den) :=
    split ▸ ⟨signed_of_decodeValue_rawSign fmt b, decodeValue_mag_lt fmt b, digits⟩
  rw [exec_encode_inRange fmt num s hden (not_outOfRange_of_fits fmt num den fits), split,
    packNumber_toSplit_decodeValue hb]

/-- Settles O15: the sign flag and the magnitude are read out of the little-endian number of the integer bytes. -/
theorem decodeCommand : Obligations.DecodeCommand := by
  refine fun fmt bytes s => ⟨fun h => ⟨_, exec_decode h s, rfl, rfl, ?_, ?_, ?_, decodeValue_frac fmt bytes⟩,
    fun h => exec_decode_illegal h s⟩
  · exact decodeValue_rawSign_eq_msb fmt bytes
  · rw [← le_take_eq_sum, ← decodeValue_integer]
    congr 1
    split
    · rw [capacity_of_signed (signed_of_decodeValue_rawSign fmt bytes ‹_›)]
    · rfl
  · exact fun hs => capacity_of_signed hs ▸ decodeValue_mag_lt fmt bytes

/-- Settles O16: the numeric value is the scaled one over 10^fd with the sign flag's sign. -/
theorem numericValue : Obligations.NumericValue := by
  intro v
  refine ⟨rfl, ?_, neg_iff_numeric v, rfl, abs_numeric v, fun mag frac => ?_⟩
  · simp [Value.neg]
  · simp [Value.numeric, Value.neg, mag, frac]

/-- Settles O17: the greatest magnitude of each format and a fraction byte up to 255 or of fd digits. -/
theorem layoutFormatRanges : Obligations.LayoutFormatRanges := by
  intro bytes
  refine ⟨decodeValue_ranges bytes (m := 255) (n := 10) rfl rfl rfl ?_ ?_,
    decodeValue_ranges bytes (m := 255) (n := 100) rfl rfl rfl ?_ ?_, ?_,
    decodeValue_integer_range bytes (m := 65535) rfl rfl rfl,
    decodeValue_ranges bytes (m := 65535) (n := 10) rfl rfl rfl ?_ ?_,
    decodeValue_ranges bytes (m := 65535) (n := 100) rfl rfl rfl ?_ ?_,
    decodeValue_integer_range bytes (m := 4294967295) rfl rfl rfl⟩
  case refine_5 =>
    obtain ⟨most, small⟩ := abs_decodeValue_ranges bytes (fmt := .s1_1) (m := 127) (n := 10) (most := 152.5)
      (small := 127.9) rfl rfl (by norm_num) (by norm_num)
    exact ⟨(abs_le.1 most).1, (abs_le.1 most).2, fun digits => abs_le.1 (small digits)⟩
  all_goals norm_num

/-- Settles O18: ENCODE answers the packed bytes, and F fits its byte. -/
theorem encodePacksBytes : Obligations.EncodePacksBytes := by
  intro fmt num den s hden inRange
  have fits := fits_of_not_outOfRange fmt num hden inRange
  refine ⟨_, exec_encode_inRange fmt num s hden inRange, packNumber_length .., fun k hk => ?_, fun hd => ?_⟩
  · rw [packNumber_getD_int fmt _ hk, splitNumber_eq]
    simp only [decide_eq_true_iff]
  · rw [packNumber_getD_frac _ hd, BitVec.toNat_ofNat]
    exact Nat.mod_eq_of_lt (fits.frac.trans_le (min_le_left ..))

/-- Settles O19: F is below 10^fd, so it reaches 256 for three digits only. -/
theorem encodeFailsOutOfRange : Obligations.EncodeFailsOutOfRange := by
  intro fmt num den s
  refine ⟨exec_encode_outOfRange fmt num s, fun hden large => ?_, exec_encode_illegal fmt num s⟩
  have digits : 256 < 10 ^ fmt.fd.val := large.trans_lt (fractionPart_lt fmt num hden)
  revert digits
  generalize fmt.fd = d
  revert d
  decide

/-- Settles O22: the answer of a codec command is the same from every state. -/
theorem codecIgnoresState : Obligations.CodecIgnoresState := by
  intro i s s' t codec hx
  obtain ⟨e, p, answers⟩ := codec_answers codec
  cases (answers s).symm.trans hx
  exact ⟨⟨rfl, rfl, rfl, rfl, rfl⟩, rfl, ⟨e, p⟩, rfl, answers s'⟩

end Sys2Proof.Machine
end

section
/-! A frame command run: its gate, its success and its failures, and the command of a body that underruns where the
frame is short (41_frame R73 to R77). -/

namespace Sys2Proof.Machine

section Gate
variable {i : Instr} {w : Nat} {s : State}

/-- In FAULT a frame command is FRAME_ABORTED. -/
theorem exec_of_fault (hw : i.frameWidth = some w) (hr : s.rstate = .fault) :
    exec i s = .next (s.answered .frameAborted .empty) :=
  (exec_frameCommand hw s).trans (frameCommand_fault hr _)

/-- In READY a frame command whose body succeeds moves the cursor and answers. -/
theorem exec_of_body_ok {p : Payload} (hw : i.frameWidth = some w) (hr : s.rstate = .ready)
    (hb : frameBody s i = .ok p (s.cur + BitVec.ofNat 8 w)) : exec i s = .next (s.afterRead w p) :=
  (exec_frameCommand hw s).trans (frameCommand_of_ok hr hb)

/-- In READY a frame command whose body raises an error that aborts fails. -/
theorem exec_of_body_raise {e : Err} (hw : i.frameWidth = some w) (hr : s.rstate = .ready)
    (hb : frameBody s i = .raise e) (he : e.aborts = true) : exec i s = .next (s.failed e) := by
  rw [exec_frameCommand hw, frameCommand_ready hr, hb, ← raise_eq_failed s he]

/-- A frame command whose body only an underrun can fail. -/
theorem exec_of_body_underrun {p : Payload} (hw : i.frameWidth = some w)
    (hb : frameBody s i = if s.len.toNat < s.cur.toNat + w then .raise .bufferUnderrun
      else .ok p (s.cur + BitVec.ofNat 8 w)) :
    exec i s = .next (
      if s.rstate = .fault then s.answered .frameAborted .empty
      else if s.len.toNat < s.cur.toNat + w then s.failed .bufferUnderrun
      else s.afterRead w p) := by
  cases hr : s.rstate with
  | fault => exact exec_of_fault hw hr
  | ready =>
    rw [if_neg nofun]
    split
    next short => exact exec_of_body_raise hw hr (hb.trans (if_pos short)) rfl
    next fits => exact exec_of_body_ok hw hr (hb.trans (if_neg fits))

/-- A frame command whose body ends with a table lookup, which is reached where there is no underrun. -/
theorem exec_of_body_lookup {p : Variant → Payload} (hw : i.frameWidth = some w) (o : Option Variant) :
    (frameBody s i = if s.len.toNat < s.cur.toNat + w then .raise .bufferUnderrun
      else match o with
        | none => .raise .unknownVariant
        | some v => .ok (p v) (s.cur + BitVec.ofNat 8 w)) →
    exec i s = .next (
      if s.rstate = .fault then s.answered .frameAborted .empty
      else if s.len.toNat < s.cur.toNat + w then s.failed .bufferUnderrun
      else match o with
        | none => s.failed .unknownVariant
        | some v => s.afterRead w (p v)) := by
  intro hb
  cases o with
  | some v => exact exec_of_body_underrun hw hb
  | none =>
    cases hr : s.rstate with
    | fault => exact exec_of_fault hw hr
    | ready =>
      rw [if_neg nofun]
      split
      next short => exact exec_of_body_raise hw hr (hb.trans (if_pos short)) rfl
      next fits => exact exec_of_body_raise hw hr (hb.trans (if_neg fits)) rfl

end Gate

/-- The body of READ_SINGLE. -/
theorem readSingleBody_eq {s : State} (h : s.FrameHolds) (fmt : Fmt) :
    frameBody s (.readSingle fmt) = if s.len.toNat < s.cur.toNat + fmt.width then .raise .bufferUnderrun
      else .ok (.value (s.fieldAt fmt 0)) (s.cur + BitVec.ofNat 8 fmt.width) :=
  bind_underrun (rd_cur h fmt) (Nat.le_refl _) fun fits => (if_neg (Nat.not_lt.2 fits)).symm

/-- The body of READ_STRIPED. -/
theorem readStripedBody_eq {s : State} (h : s.FrameHolds) (fmt : Fmt) (count : BitVec 8) :
    frameBody s (.readStriped fmt count) =
      if s.len.toNat < s.cur.toNat + count.toNat * fmt.width then .raise .bufferUnderrun
      else .ok (.values (stripedValues fmt count.toNat (s.bytesAt 0 (count.toNat * fmt.width))))
        (s.cur + BitVec.ofNat 8 (count.toNat * fmt.width)) :=
  bind_underrun (rds_eq h fmt count.toNat s.cur) (Nat.le_refl _) fun fits => (if_neg (Nat.not_lt.2 fits)).symm

end Sys2Proof.Machine
end

section
/-! STATUS as a number (10_state R22). -/

namespace Sys2Proof.Machine

/-- A field placed above the bits in use adds to the word's number. -/
theorem or_shiftLeft_toNat {x y : BitVec 32} {m n k : Nat} (hx : x.toNat = n) (hy : y.toNat = m) (low : n < 2 ^ k)
    (high : m * 2 ^ k < 2 ^ 32) : (x ||| y <<< k).toNat = m * 2 ^ k + n := by
  rw [BitVec.toNat_or, BitVec.toNat_shiftLeft, hx, hy, Nat.shiftLeft_eq, Nat.mod_eq_of_lt high, Nat.or_comm,
    ← Nat.shiftLeft_eq, Nat.shiftLeft_add_eq_or_of_lt low]

theorem rstateBit_toNat (r : RState) : r.bit.toNat = (decide (r = .fault)).toNat := by cases r <;> rfl

/-- STATUS as a number: its fields, each at its place (10_state R22). -/
theorem statusWord_toNat (s : State) :
    (statusWord s).toNat = (decide (s.rstate = .fault)).toNat * 2 ^ 20 + (s.err.code.toNat * 2 ^ 16 +
      (s.cur.toNat * 2 ^ 8 + s.len.toNat)) := by
  have len := BitVec.toNat_setWidth_of_le (by decide : 8 ≤ 32) (b := s.len)
  have cur := BitVec.toNat_setWidth_of_le (by decide : 8 ≤ 32) (b := s.cur)
  have err := BitVec.toNat_setWidth_of_le (by decide : 4 ≤ 32) (b := s.err.code)
  have bit := BitVec.toNat_setWidth_of_le (by decide : 1 ≤ 32) (b := s.rstate.bit)
  rw [rstateBit_toNat] at bit
  have hfault := (decide (s.rstate = .fault)).toNat_lt
  refine or_shiftLeft_toNat (or_shiftLeft_toNat (or_shiftLeft_toNat len cur ?_ ?_) err ?_ ?_) bit ?_ ?_ <;> omega

end Sys2Proof.Machine
end

section
/-! A striped region: its elements, and the same elements in its row-major rearrangement (20_memory R32, 41_frame R80,
R83). -/

namespace Sys2Proof.Machine

theorem slice_length {l : List Byte} {a n : Nat} (h : a + n ≤ l.length) : (slice l a n).length = n := by
  rw [slice, List.length_take, List.length_drop]
  omega

theorem slice_getD (l : List Byte) (a : Nat) {k n : Nat} (hk : k < n) : (slice l a n).getD k 0 = l.getD (a + k) 0 := by
  simp only [slice, List.getD_eq_getElem?_getD, List.getElem?_take_of_lt hk, List.getElem?_drop]

/-- Blocks of w bytes laid out one after another: bytes i·w to i·w + w are block i. -/
theorem slice_flatMap {α : Type} {f : α → List Byte} {w : Nat} {l : List α} (hw : ∀ a ∈ l, (f a).length = w) {i : Nat}
    (hi : i < l.length) : slice (l.flatMap f) (i * w) w = f l[i] := by
  induction l generalizing i with
  | nil => exact absurd hi (Nat.not_lt_zero i)
  | cons a l ih =>
    have head : (f a).length = w := hw a List.mem_cons_self
    rw [List.flatMap_cons]
    cases i with
    | zero => rw [Nat.zero_mul, slice, List.drop_zero, List.take_left' head, List.getElem_cons_zero]
    | succ i =>
      have tail := ih (fun b hb => hw b (List.mem_cons_of_mem a hb)) (Nat.lt_of_succ_lt_succ hi)
      rw [List.getElem_cons_succ, ← tail, slice, slice, Nat.succ_mul, Nat.add_comm (i * w), ← List.drop_drop,
        List.drop_left' head]

theorem bytesAt_length {s : State} (h : s.FrameHolds) {i n : Nat} (fits : s.cur.toNat + (i + n) ≤ s.len.toNat) :
    (s.bytesAt i n).length = n := slice_length (by rw [frame_length h]; omega)

/-- Bytes past the cursor as a part of more of them. -/
theorem bytesAt_eq_slice (s : State) {i k n : Nat} (h : i + k ≤ n) : s.bytesAt i k = slice (s.bytesAt 0 n) i k := by
  rw [State.bytesAt, State.bytesAt, slice_slice _ _ _ _ _ h, Nat.add_zero]

theorem decodeValue_append {fmt : Fmt} {ibytes rest : List Byte} (h : ibytes.length = fmt.ib) :
    decodeValue fmt (ibytes ++ rest) = decodeParts fmt ibytes (if fmt.fd.val > 0 then rest.getD 0 0 else 0) := by
  unfold decodeValue
  rw [slice, List.drop_zero, List.take_left' h, List.getD_append_right _ _ _ _ h.le, h, Nat.sub_self]

theorem fractionBytes_cases (fmt : Fmt) :
    0 < fmt.fd.val ∧ fmt.fractionBytes = 1 ∨ ¬0 < fmt.fd.val ∧ fmt.fractionBytes = 0 := by
  unfold Fmt.fractionBytes
  by_cases hd : 0 < fmt.fd.val
  · exact .inl ⟨hd, if_pos hd⟩
  · exact .inr ⟨hd, if_neg hd⟩

/-- Block i of n blocks of w bytes lies within them. -/
theorem block_fits {i n : Nat} (w : Nat) (hi : i < n) : i * w + w ≤ n * w :=
  Nat.succ_mul i w ▸ Nat.mul_le_mul_right w hi

section Region
variable {fmt : Fmt} {i n : Nat} (hi : i < n)
include hi

/-- Integer sub-block i lies within a striped region of n elements. -/
theorem striped_int_fits : i * fmt.ib + fmt.ib ≤ n * fmt.width :=
  (block_fits fmt.ib hi).trans (Nat.mul_le_mul_left n (Nat.le_add_right _ _))

/-- Where the format has a fraction byte, fraction byte i lies within the region. -/
theorem striped_frac_fits (hd : 0 < fmt.fd.val) : n * fmt.ib + i < n * fmt.width := by
  rw [Fmt.width, Fmt.fractionBytes, if_pos hd, Nat.mul_add]
  omega

variable {region : List Byte} (hr : region.length = n * fmt.width)
include hr

/-- Element i is decoded from integer sub-block i followed by fraction byte i (20_memory R32). -/
theorem decodeValue_striped {rest : List Byte}
    (frac : 0 < fmt.fd.val → rest.getD 0 0 = region.getD (n * fmt.ib + i) 0) :
    decodeValue fmt (slice region (i * fmt.ib) fmt.ib ++ rest) = stripedElement fmt n region i := by
  rw [decodeValue_append (slice_length (hr ▸ striped_int_fits hi)), stripedElement]
  split
  · rw [frac ‹_›]
  · rfl

/-- Bytes i·width to (i + 1)·width of the row-major rearrangement are those of element i. -/
theorem slice_rowMajor :
    slice (rowMajor fmt n region) (i * fmt.width) fmt.width =
      slice region (i * fmt.ib) fmt.ib ++ slice region (n * fmt.ib + i) fmt.fractionBytes := by
  have block : ∀ j ∈ List.range n,
      (slice region (j * fmt.ib) fmt.ib ++ slice region (n * fmt.ib + j) fmt.fractionBytes).length = fmt.width := by
    intro j hj
    have hj := List.mem_range.1 hj
    rw [List.length_append, slice_length (hr ▸ striped_int_fits hj), Fmt.width, Nat.add_left_cancel_iff]
    rcases fractionBytes_cases fmt with ⟨hd, hf⟩ | ⟨-, hf⟩ <;> rw [hf]
    · exact slice_length (hr ▸ striped_frac_fits hj hd)
    · rfl
  rw [rowMajor, slice_flatMap block (by rwa [List.length_range]), List.getElem_range]

/-- Element i is decoded from its bytes in the row-major rearrangement (41_frame R83). -/
theorem decodeValue_rowMajor :
    decodeValue fmt (slice (rowMajor fmt n region) (i * fmt.width) fmt.width) = stripedElement fmt n region i := by
  rw [slice_rowMajor hi hr]
  refine decodeValue_striped hi hr fun hd => slice_getD region _ ?_
  rw [Fmt.fractionBytes, if_pos hd]
  exact Nat.one_pos

end Region

end Sys2Proof.Machine
end

section
/-! Runs of commands the host offers one after another (41_frame R83, R86). -/

namespace Sys2Proof.Machine

/-- A frame command is well formed: it takes no data. -/
theorem wf_of_frameWidth {i : Instr} {w : Nat} (hw : i.frameWidth = some w) : i.wf = true := by
  cases i with
  | load _ _ => cases hw
  | decode _ _ => cases hw
  | encode _ _ _ => cases hw
  | _ => rfl

/-- A step takes the first of the offered commands and runs it. -/
theorem step_offers {i : Instr} (hi : i.wf = true) (is : List Instr) (s : State) :
    step (s.offers (i :: is)) = exec i (s.offers is) := by
  have hin : (s.offers (i :: is)).inbox = .offer (encode i) :: (is.map offerOf ++ s.inbox) := rfl
  rw [step_of_offer hin, runOffer_of_decode (decode_encode hi)]
  rfl

/-- A command gives one response. -/
theorem exec_outbox {i : Instr} {s t : State} (hx : exec i s = .next t) : ∃ r, t.outbox = s.outbox ++ [r] := by
  rcases exec_cases hx with ⟨_, _, -, -, rfl⟩ | ⟨_, _, rfl⟩ | ⟨_, _, -, -, rfl⟩ | ⟨_, -, rfl⟩ <;> exact ⟨_, rfl⟩

/-- A step takes back no response. -/
theorem step_outbox {s t : State} (hs : step s = .next t) : ∃ rs, t.outbox = s.outbox ++ rs := by
  rcases step_cases s with ⟨-, h⟩ | ⟨_, -, h⟩ | ⟨_, _, i, -, -, h⟩ | ⟨_, _, _, -, -, h⟩ <;> rw [h] at hs
  case inr.inr.inl =>
    obtain ⟨r, hr⟩ := exec_outbox hs
    exact ⟨[r], hr⟩
  all_goals cases hs
  · exact ⟨[], (List.append_nil _).symm⟩
  · exact ⟨[], (List.append_nil _).symm⟩
  · exact ⟨_, rfl⟩

/-- A run takes back no response. -/
theorem run_outbox {k : Nat} {s t : State} (hk : Host.Core.run core k s = .next t) :
    ∃ rs, t.outbox = s.outbox ++ rs := by
  induction k generalizing s with
  | zero => cases hk; exact ⟨[], (List.append_nil _).symm⟩
  | succ k ih =>
    obtain ⟨u, hu, ht⟩ := step_of_run hk
    obtain ⟨rs, hrs⟩ := step_outbox hu
    obtain ⟨rs', hrs'⟩ := ih ht
    exact ⟨rs ++ rs', by rw [hrs', hrs, List.append_assoc]⟩

/-- The responses since s of a run that goes on from u, whose response r was the first of them. -/
theorem since_cons {s u t : State} {r : Response} {k : Nat} (first : u.outbox = s.outbox ++ [r])
    (later : Host.Core.run core k u = .next t) : s.since t = r :: u.since t := by
  obtain ⟨rs, hrs⟩ := run_outbox later
  rw [State.since, State.since, hrs, List.drop_left, first, List.append_assoc, List.drop_left]
  rfl

/-- The state after n READ_SINGLEs that succeed. -/
def State.afterReads (s : State) (fmt : Fmt) (n : Nat) : State :=
  { s with
    cur := s.cur + BitVec.ofNat 8 (n * fmt.width)
    outbox := s.outbox ++ (List.range n).map fun i => ⟨.ok, .value (s.fieldAt fmt (i * fmt.width))⟩ }

/-- A field past a read of w bytes is the field w bytes further past the cursor before it. -/
theorem fieldAt_afterRead {s : State} {w : Nat} (fits : s.cur.toNat + w ≤ s.len.toNat) (p : Payload) (fmt : Fmt)
    (i : Nat) : (s.afterRead w p).fieldAt fmt i = s.fieldAt fmt (i + w) := by
  rw [State.fieldAt, State.fieldAt, State.bytesAt, State.bytesAt, afterRead_cur, cur_add fits, afterRead_frame,
    Nat.add_assoc, Nat.add_comm w]

/-- One READ_SINGLE, then n more. -/
theorem afterReads_succ {s : State} {fmt : Fmt} (fits : s.cur.toNat + fmt.width ≤ s.len.toNat) (n : Nat) :
    (s.afterRead fmt.width (.value (s.fieldAt fmt 0))).afterReads fmt n = s.afterReads fmt (n + 1) := by
  have cur : s.cur + BitVec.ofNat 8 fmt.width + BitVec.ofNat 8 (n * fmt.width) =
      s.cur + BitVec.ofNat 8 ((n + 1) * fmt.width) := by rw [add_ofNat_add_ofNat, Nat.succ_mul, Nat.add_comm]
  have field (i : Nat) : (s.afterRead fmt.width (.value (s.fieldAt fmt 0))).fieldAt fmt (i * fmt.width) =
      s.fieldAt fmt ((i + 1) * fmt.width) := by rw [fieldAt_afterRead fits, Nat.succ_mul]
  simp only [State.afterReads, field, afterRead_cur, cur, afterRead_outbox, List.range_succ_eq_map, List.map_cons,
    List.map_map, List.append_assoc, Nat.zero_mul]
  rfl

/-- READ_SINGLEs one after another, with enough bytes for all of them. -/
theorem run_readSingles {s : State} (inv : s.Inv) (hr : s.rstate = .ready) (fmt : Fmt) {n : Nat}
    (fits : s.cur.toNat + n * fmt.width ≤ s.len.toNat) :
    Host.Core.run core n (s.offers (List.replicate n (.readSingle fmt))) = .next (s.afterReads fmt n) := by
  induction n generalizing s with
  | zero => simp [Host.Core.run, State.offers, State.afterReads]
  | succ n ih =>
    rw [Nat.succ_mul] at fits
    have fit : s.cur.toNat + fmt.width ≤ s.len.toNat := by omega
    have first : exec (.readSingle fmt) (s.offers (List.replicate n (.readSingle fmt))) =
        .next ((s.afterRead fmt.width (.value (s.fieldAt fmt 0))).offers (List.replicate n (.readSingle fmt))) :=
      exec_of_body_ok (s := s.offers _) rfl hr
        ((readSingleBody_eq (s := s.offers _) inv.frame fmt).trans (if_neg (Nat.not_lt.2 fit)))
    rw [List.replicate_succ, run_of_step ((step_offers rfl _ s).trans first), ← afterReads_succ fit]
    refine ih (inv_afterRead inv fit _) hr ?_
    rw [afterRead_cur, cur_add fit, afterRead_len]
    omega

end Sys2Proof.Machine
end

section
/-! A frame command reads the bytes at its cursor alone: two states that hold the same bytes there give the same reads
(41_frame R73, R86). -/

namespace Sys2Proof.Machine

/-- The frames of two states hold the same n bytes at these cursors. -/
structure SameAhead (s s' : State) (c c' : BitVec 8) (n : Nat) : Prop where
  fits : c.toNat + n ≤ s.len.toNat
  fits' : c'.toNat + n ≤ s'.len.toNat
  bytes : slice s.frame c.toNat n = slice s'.frame c'.toNat n

/-- Two reads give the same result, with the same n bytes ahead of the cursors after it, or raise the same error. -/
def ReadsAlike {α : Type} (s s' : State) (r r' : ReadOut α) (n : Nat) : Prop :=
  (∃ x c c', r = .ok x c ∧ r' = .ok x c' ∧ SameAhead s s' c c' n) ∨ ∃ e, r = .raise e ∧ r' = .raise e

section Alike
variable {s s' : State}

theorem readsAlike_ok {α : Type} (x : α) {c c' : BitVec 8} {n : Nat} (ahead : SameAhead s s' c c' n) :
    ReadsAlike s s' (.ok x c) (.ok x c') n := .inl ⟨x, c, c', rfl, rfl, ahead⟩

theorem readsAlike_raise {α : Type} (e : Err) (n : Nat) : ReadsAlike s s' (.raise e : ReadOut α) (.raise e) n :=
  .inr ⟨e, rfl, rfl⟩

/-- Reads in sequence are alike where each is, on what the one before it left ahead. -/
theorem readsAlike_bind {α β : Type} {r r' : ReadOut α} {f f' : α → BitVec 8 → ReadOut β} {m n : Nat}
    (first : ReadsAlike s s' r r' m)
    (rest : ∀ x c c', SameAhead s s' c c' m → ReadsAlike s s' (f x c) (f' x c') n) :
    ReadsAlike s s' (r.bind f) (r'.bind f') n := by
  rcases first with ⟨x, c, c', rfl, rfl, ahead⟩ | ⟨e, rfl, rfl⟩
  · exact rest x c c' ahead
  · exact readsAlike_raise e n

/-- What is made of a read's result is alike. -/
theorem readsAlike_map {α β : Type} {r r' : ReadOut α} {n : Nat} (alike : ReadsAlike s s' r r' n) (f : α → β) :
    ReadsAlike s s' (r.bind fun x c => .ok (f x) c) (r'.bind fun x c => .ok (f x) c) n :=
  readsAlike_bind alike fun x _ _ ahead => readsAlike_ok (f x) ahead

variable (h : s.FrameHolds) (h' : s'.FrameHolds) {c c' : BitVec 8}
include h h'

theorem readsAlike_takeBytes {k m : Nat} (ahead : SameAhead s s' c c' (k + m)) :
    ReadsAlike s s' (takeBytes s k c) (takeBytes s' k c') m := by
  obtain ⟨fits, fits', bytes⟩ := ahead
  have taken : slice s.frame c.toNat k = slice s'.frame c'.toNat k := by
    have := congrArg (slice · 0 k) bytes
    simpa only [slice_slice _ _ (k + m) 0 k (by omega), Nat.add_zero] using this
  have left : slice s.frame (c.toNat + k) m = slice s'.frame (c'.toNat + k) m := by
    have := congrArg (slice · k m) bytes
    simpa only [slice_slice _ _ (k + m) k m le_rfl] using this
  rw [takeBytes_eq h, takeBytes_eq h', if_neg (by omega), if_neg (by omega), taken]
  have cur : (c + BitVec.ofNat 8 k).toNat = c.toNat + k := cur_add (l := s.len) (by omega)
  have cur' : (c' + BitVec.ofNat 8 k).toNat = c'.toNat + k := cur_add (l := s'.len) (by omega)
  exact readsAlike_ok _ ⟨by omega, by omega, by rwa [cur, cur']⟩

theorem readsAlike_rd {m : Nat} (fmt : Fmt) (ahead : SameAhead s s' c c' (fmt.width + m)) :
    ReadsAlike s s' (rd s fmt c) (rd s' fmt c') m :=
  readsAlike_map (readsAlike_takeBytes h h' ahead) _

theorem readsAlike_rds {m : Nat} (fmt : Fmt) (n : Nat) (ahead : SameAhead s s' c c' (n * fmt.width + m)) :
    ReadsAlike s s' (rds s fmt n c) (rds s' fmt n c') m :=
  readsAlike_map (readsAlike_takeBytes h h' ahead) _

theorem readsAlike_rde {m : Nat} (cfg : Config) (t : TableId) (ahead : SameAhead s s' c c' (1 + m)) :
    ReadsAlike s s' (rde cfg s t c) (rde cfg s' t c') m :=
  readsAlike_bind (readsAlike_takeBytes h h' ahead) fun bs _ _ left => by
    cases tableFor cfg t (bs.headD 0) with
    | none => exact readsAlike_raise .unknownVariant m
    | some v => exact readsAlike_ok v left

/-- A read of one field, then the rest of the body. -/
theorem readsAlike_bind_rd {α : Type} (fmt : Fmt) (m : Nat) {f f' : Value → BitVec 8 → ReadOut α}
    (ahead : SameAhead s s' c c' (fmt.width + m))
    (rest : ∀ x d d', SameAhead s s' d d' m → ReadsAlike s s' (f x d) (f' x d') 0) :
    ReadsAlike s s' ((rd s fmt c).bind f) ((rd s' fmt c').bind f') 0 :=
  readsAlike_bind (readsAlike_rd h h' fmt ahead) rest

/-- The bodies of a frame command of width w are alike where the w bytes at the cursors are the same. -/
theorem readsAlike_frameBody {i : Instr} {w : Nat} (hw : i.frameWidth = some w)
    (ahead : SameAhead s s' s.cur s'.cur w) : ReadsAlike s s' (frameBody s i) (frameBody s' i) 0 := by
  cases i with
  | load _ _ => cases hw
  | decode _ _ => cases hw
  | encode _ _ _ => cases hw
  | query => cases hw
  | readSingle fmt => cases hw; exact readsAlike_map (readsAlike_rd h h' fmt ahead) _
  | readEnum t => cases hw; exact readsAlike_map (readsAlike_rde h h' hardware t ahead) _
  | readStriped fmt n => cases hw; exact readsAlike_map (readsAlike_rds h h' fmt n.toNat ahead) _
  | unpackAir =>
    cases hw
    exact readsAlike_bind_rd h h' .s1_1 10 ahead fun _ _ _ ahead => readsAlike_bind_rd h h' .u4_0 6 ahead
      fun _ _ _ ahead => readsAlike_bind_rd h h' .u1_2 4 ahead fun _ _ _ ahead =>
        readsAlike_map (readsAlike_rd h h' .u4_0 ahead) _
  | unpackAirQuality =>
    cases hw
    refine readsAlike_bind_rd h h' .u2_1 7 ahead fun aqi _ _ ahead => ?_
    cases tierUnder hardware.aqiOver aqi with
    | none => exact readsAlike_raise .aqiTierUndefined 0
    | some tr =>
      exact readsAlike_bind_rd h h' .u2_1 4 ahead fun _ _ _ ahead => readsAlike_bind_rd h h' .u2_2 1 ahead
        fun _ _ _ ahead => readsAlike_map (readsAlike_rde h h' hardware .accuracy ahead) _
  | unpackLight =>
    cases hw
    exact readsAlike_bind_rd h h' .u2_2 2 ahead fun _ _ _ ahead =>
      readsAlike_map (readsAlike_rd h h' .u2_0 ahead) _
  | unpackSound =>
    cases hw
    exact readsAlike_bind_rd h h' .u1_1 16 ahead fun _ _ _ ahead =>
      readsAlike_bind (readsAlike_rds h h' (m := 4) .u1_1 6 ahead) fun _ _ _ ahead =>
        readsAlike_bind_rd h h' .u2_2 1 ahead fun _ _ _ ahead =>
          readsAlike_map (readsAlike_rde h h' hardware .stability ahead) _
  | unpackParticle k =>
    cases hw
    simp only [frameBody, particleBody]
    split
    · exact readsAlike_raise .noParticleSensor 0
    · exact readsAlike_bind_rd h h' .u1_2 4 ahead fun _ _ _ ahead => readsAlike_bind_rd h h' .u2_2 1 ahead
        fun _ _ _ ahead => readsAlike_map (readsAlike_rde h h' hardware .validity ahead) _

end Alike

end Sys2Proof.Machine
end

section
/-! The statements about the frame reader (41_frame). -/

namespace Sys2Proof.Machine

/-- Settles O32: the gate comes before the body, whatever the command. -/
theorem faultGate : Obligations.FaultGate := fun _ _ _ => exec_of_fault

/-- Settles O25: the bytes are the frame's, and STATUS has LEN alone where the cursor, the error and FAULT are 0. -/
theorem loadInstallsFrame : Obligations.LoadInstallsFrame := by
  refine fun len bytes s => ⟨fun hl => ?_, fun hl => if_neg hl⟩
  have holds := (inv_install s hl).frame
  have loaded : ((s.install len bytes).answer .ok .empty).frame = bytes := ofBytes_snd bytes
  refine ⟨_, if_pos hl, loaded, holds, fun a => ?_, rfl, rfl, rfl, rfl, BitVec.eq_of_toNat_eq ?_, rfl, rfl⟩
  · rw [byte_eq_frame holds, loaded]
  · rw [statusWord_toNat, BitVec.toNat_setWidth_of_le (by decide)]
    simp [Err.code]

/-- Settles O26: the body is one read of the format's width. -/
theorem readSingleCommand : Obligations.ReadSingleCommand := fun fmt _ inv =>
  exec_of_body_underrun rfl (readSingleBody_eq inv.frame fmt)

/-- Settles O27: with the cursor within LEN, a byte is missing exactly where the cursor is at LEN. -/
theorem readEnumCommand : Obligations.ReadEnumCommand := by
  intro table s inv
  have atEnd : s.cur = s.len ↔ s.len.toNat < s.cur.toNat + 1 := by
    rw [← BitVec.toNat_inj]
    have := inv.cursor
    omega
  simp only [atEnd]
  exact exec_of_body_lookup (i := .readEnum table) rfl _ (bind_rde_cur inv.frame hardware table _)

/-- Settles O29: the elements are those of the striped region at the cursor. -/
theorem readStripedCommand : Obligations.ReadStripedCommand := by
  intro fmt count s inv
  refine ⟨stripedValues fmt count.toNat (s.bytesAt 0 (count.toNat * fmt.width)), ?_, fun fits i hi => ?_,
    exec_of_body_underrun (i := .readStriped fmt count) rfl (readStripedBody_eq inv.frame fmt count)⟩
  · rw [stripedValues, List.length_map, List.length_range]
  · have region := bytesAt_length inv.frame (i := 0) (n := count.toNat * fmt.width) (by omega)
    rw [stripedValues, List.getElem?_map, List.getElem?_range hi, Option.map_some,
      bytesAt_eq_slice s (striped_int_fits hi), decodeValue_striped hi region]
    intro hd
    rw [bytesAt_getD s (striped_frac_fits hi hd), Nat.zero_add]
    rfl

/-- Settles O30: element i of the region is the field at offset i·width of its row-major rearrangement. -/
theorem stripedIsRowMajor : Obligations.StripedIsRowMajor := by
  intro fmt count s s' inv inv' hr hr' fits fits' rearranged
  refine ⟨stripedValues fmt count.toNat (s.bytesAt 0 (count.toNat * fmt.width)),
    exec_of_body_ok rfl hr ((readStripedBody_eq inv.frame fmt count).trans (if_neg (Nat.not_lt.2 fits))), ?_⟩
  have region := bytesAt_length inv.frame (i := 0) (n := count.toNat * fmt.width) (by omega)
  have field (i : Nat) (hi : i < count.toNat) : s'.fieldAt fmt (i * fmt.width) =
      stripedElement fmt count.toNat (s.bytesAt 0 (count.toNat * fmt.width)) i := by
    rw [State.fieldAt, bytesAt_eq_slice s' (block_fits fmt.width hi), rearranged, decodeValue_rowMajor hi region]
  have responses : ((List.range count.toNat).map fun i => Response.mk .ok (.value (s'.fieldAt fmt (i * fmt.width)))) =
      (stripedValues fmt count.toNat (s.bytesAt 0 (count.toNat * fmt.width))).map fun v => ⟨.ok, .value v⟩ := by
    rw [stripedValues, List.map_map]
    exact List.map_congr_left fun i hi => by rw [field i (List.mem_range.1 hi)]; rfl
  rw [run_readSingles inv' hr' fmt fits', State.afterReads, responses]

/-- Settles O31: each field is read back from the word's number. -/
theorem queryStatus : Obligations.QueryStatus := by
  refine ⟨by decide, fun s => ⟨statusWord s, rfl, ?_⟩⟩
  have word := statusWord_toNat s
  have hfault := (decide (s.rstate = .fault)).toNat_lt
  have fault : (statusWord s).getLsbD 20 = decide (s.rstate = .fault) := getLsbD_eq_of_toNat (by omega)
  refine ⟨extract_eq_of_toNat ?_, extract_eq_of_toNat ?_, extract_eq_of_toNat ?_, by rw [fault, decide_eq_true_iff],
    extract_eq_of_toNat ?_⟩
  case refine_4 => change _ = 0; omega
  all_goals omega

/-- Settles O33: a success alone moves the cursor, and an error that aborts is not OK. -/
theorem frameCommandsFrame : Obligations.FrameCommandsFrame := by
  intro i w s t hw hx
  rcases frame_exec_cases hw hx with ⟨-, rfl⟩ | ⟨-, p, -, rfl⟩ | ⟨-, e, -, he, rfl⟩
  · exact ⟨rfl, fun _ => rfl, rfl, rfl, ⟨.frameAborted, .empty⟩, rfl, nofun, fun _ => rfl⟩
  · exact ⟨rfl, fun _ => rfl, rfl, rfl, ⟨.ok, p⟩, rfl, fun _ => ⟨rfl, rfl, rfl⟩, absurd rfl⟩
  · refine ⟨rfl, fun _ => rfl, rfl, rfl, ⟨e, .empty⟩, rfl, fun hok => ?_, fun _ => rfl⟩
    subst hok
    cases he

/-- Settles O36: both states are in FAULT, or their bodies are alike. -/
theorem frameCommandReadsItsRange : Obligations.FrameCommandReadsItsRange := by
  intro i w s s' hw inv inv' hr he fits fits' bytes
  cases hs : s.rstate with
  | fault =>
    have hs' : s'.rstate = .fault := hr ▸ hs
    exact ⟨_, _, exec_of_fault hw hs, exec_of_fault hw hs', by simp only [lastResponse_answered], hr, he⟩
  | ready =>
    have hs' : s'.rstate = .ready := hr ▸ hs
    rw [exec_frameCommand hw, exec_frameCommand hw, frameCommand_ready hs, frameCommand_ready hs']
    rcases readsAlike_frameBody inv.frame inv'.frame hw ⟨fits, fits', bytes⟩ with ⟨p, c, c', hb, hb', -⟩ | ⟨e, hb, hb'⟩
    · rw [hb, hb']
      exact ⟨_, _, rfl, rfl, by simp only [lastResponse_answer], hr, he⟩
    · rw [hb, hb']
      exact ⟨_, _, rfl, rfl, by simp only [lastResponse_raise], by rw [raise_rstate, raise_rstate, hr],
        by rw [raise_err, raise_err, he]⟩

/-- Settles O37: by induction on the commands; an OK response is that of a success, which moves the cursor by its width
within LEN, and the rest run from there. -/
theorem successfulReadsAreConsecutive : Obligations.SuccessfulReadsAreConsecutive := by
  intro is
  induction is with
  | nil =>
    intro s t inv _ ht _
    cases ht
    exact ⟨rfl, inv.cursor, rfl, rfl⟩
  | cons i is ih =>
    intro s t inv hframe ht hok
    obtain ⟨w, hw⟩ := Option.isSome_iff_exists.1 (hframe i List.mem_cons_self)
    obtain ⟨u, hu, hrest⟩ := step_of_run ht
    rw [step_offers (wf_of_frameWidth hw)] at hu
    have responses (r : Response) (hr : u.outbox = s.outbox ++ [r]) : s.since t = r :: u.since t :=
      since_cons hr hrest
    rcases frame_exec_cases hw hu with ⟨-, rfl⟩ | ⟨-, p, hb, rfl⟩ | ⟨-, e, -, he, rfl⟩
    · rw [responses ⟨.frameAborted, .empty⟩ rfl] at hok
      cases hok _ List.mem_cons_self
    · have fits : s.cur.toNat + w ≤ s.len.toNat := read_fits (s := s.offers is) inv.frame hw hb
      rw [responses ⟨.ok, p⟩ rfl] at hok
      obtain ⟨hcur, hle, hmem, hlen⟩ := ih (s.afterRead w p) t (inv_afterRead inv fits p)
        (fun j hj => hframe j (List.mem_cons_of_mem i hj)) hrest (fun r hr => hok r (List.mem_cons_of_mem _ hr))
      refine ⟨?_, hle, hmem, hlen⟩
      rw [hcur, afterRead_cur, cur_add fits, List.map_cons, List.sum_cons, hw, Option.getD_some, Nat.add_assoc]
    · rw [responses ⟨e, .empty⟩ rfl] at hok
      cases hok _ List.mem_cons_self
      cases he

end Sys2Proof.Machine
end

section
/-! The AQI tiers on the exact numeric value, and the tier that each policy gives (42_unpack R90, R91). -/

namespace Sys2Proof.Machine

/-- The model's comparison by integers is the exact one. -/
theorem scaled_le_iff_numeric_le {v : Value} (h : v.rawSign = false) (n : ℕ) :
    v.scaled ≤ n * 10 ^ v.fd.val ↔ v.numeric ≤ n := by
  have scale : (0 : ℚ) < 10 ^ v.fd.val := by positivity
  have value : v.numeric = v.scaled / 10 ^ v.fd.val := by simp [numeric_eq, h]
  rw [value, div_le_iff₀ scale]
  exact_mod_cast Iff.rfl

/-- What the first entry that passes a test gives, one entry at a time. -/
theorem map_find?_cons {α β : Type} (p : α → Prop) [DecidablePred p] (f : α → β) (a : α) (l : List α) :
    ((a :: l).find? fun e => decide (p e)).map f =
      if p a then some (f a) else (l.find? fun e => decide (p e)).map f := by
  by_cases hp : p a
  · simp [hp]
  · simp [hp]

/-- The tier of a VALUE without a sign flag, threshold by threshold. -/
theorem tierOf_eq {v : Value} (h : v.rawSign = false) :
    tierOf v =
      if v.numeric ≤ 49 then some .good
      else if v.numeric ≤ 99 then some .acceptable
      else if v.numeric ≤ 149 then some .substandard
      else if v.numeric ≤ 199 then some .poor
      else if v.numeric ≤ 299 then some .bad
      else if v.numeric ≤ 499 then some .veryBad
      else none := by
  simp only [tierOf, aqiThresholds, map_find?_cons, scaled_le_iff_numeric_le h]
  rfl

/-- An AQI above 499 is OVER. -/
theorem tierOf_of_over {v : Value} (h : v.rawSign = false) (high : 499 < v.numeric) : tierOf v = none := by
  have above (n : ℚ) (hn : n ≤ 499) : ¬v.numeric ≤ n := not_le.2 (hn.trans_lt high)
  simp only [tierOf_eq h, above 49 (by norm_num), above 99 (by norm_num), above 149 (by norm_num),
    above 199 (by norm_num), above 299 (by norm_num), above 499 le_rfl, if_false]

/-- Under the policy NONE there is always a tier. -/
theorem tierUnder_none (v : Value) : tierUnder .none v = some ((tierOf v).getD .noTier) := by
  unfold tierUnder
  cases tierOf v <;> rfl

theorem tierUnder_error {v : Value} (high : tierOf v = none) : tierUnder .error v = none := by
  rw [tierUnder, high]

/-- Under the other policies an AQI that is OVER has a tier. -/
theorem tierUnder_of_over {v : Value} (high : tierOf v = none) {policy : AqiOverPolicy} (h : policy ≠ .error) :
    tierUnder policy v = some (if policy = .clamp then .veryBad else .noTier) := by
  cases policy with
  | none => rw [tierUnder, high]; rfl
  | clamp => rw [tierUnder, high]; rfl
  | error => exact absurd rfl h

/-- Under ERROR an AQI above 499 fails right after its field. -/
theorem airQualityBody_of_error {s : State} (h : s.FrameHolds) {cfg : Config} (policy : cfg.aqiOver = .error)
    (fits : s.cur.toNat + 3 ≤ s.len.toNat) (high : tierOf (s.fieldAt .u2_1 0) = none) :
    airQualityBody cfg s = .raise .aqiTierUndefined := by
  have field : rd s .u2_1 s.cur = .ok (s.fieldAt .u2_1 0) (s.cur + BitVec.ofNat 8 3) :=
    (rd_cur h .u2_1).trans (if_neg (Nat.not_lt.2 fits))
  rw [airQualityBody, field, bind_ok, policy, tierUnder_error high]

end Sys2Proof.Machine
end

section
/-! The bodies of the commands that only an underrun can fail, where FRAME has LEN bytes, and what the bodies of all
five categories share (42_unpack R96 to R102). -/

namespace Sys2Proof.Machine

variable {s : State}

theorem airBody_eq (h : s.FrameHolds) :
    airBody s =
      if s.len.toNat < s.cur.toNat + 12 then .raise .bufferUnderrun
      else .ok (.record [(.tC, .value (s.fieldAt .s1_1 0)), (.pPa, .value (s.fieldAt .u4_0 2)),
        (.hPc, .value (s.fieldAt .u1_2 6)), (.gOhm, .value (s.fieldAt .u4_0 8))]) (s.cur + BitVec.ofNat 8 12) := by
  refine bind_underrun (rd_cur h .s1_1) (by decide) fun h2 => ?_
  refine bind_underrun (rd_at h .u4_0 2 h2) (by decide) fun h6 => ?_
  refine bind_underrun (rd_at h .u1_2 6 h6) (by decide) fun h8 => ?_
  exact bind_underrun (rd_at h .u4_0 8 h8) le_rfl fun h12 => (if_neg (Nat.not_lt.2 h12)).symm

theorem lightBody_eq (h : s.FrameHolds) :
    lightBody s =
      if s.len.toNat < s.cur.toNat + 5 then .raise .bufferUnderrun
      else .ok (.record [(.illuminance, .value (s.fieldAt .u2_2 0)), (.white, .value (s.fieldAt .u2_0 3))])
        (s.cur + BitVec.ofNat 8 5) := by
  refine bind_underrun (rd_cur h .u2_2) (by decide) fun h3 => ?_
  exact bind_underrun (rd_at h .u2_0 3 h3) le_rfl fun h5 => (if_neg (Nat.not_lt.2 h5)).symm

/-- The width of an UNPACK is its category's size. -/
theorem frameWidth_categoryUnpack (kind : SensorKind) (cat : Category) :
    (categoryUnpack kind cat).frameWidth = some cat.size := by
  cases cat <;> rfl

/-- With the whole frame present, a table lookup can end in UNKNOWN_VARIANT alone. -/
theorem lookup_ne_underrun (o : Option Variant) (p : Variant → Payload) (c : BitVec 8) :
    (match o with
      | none => ReadOut.raise .unknownVariant
      | some v => .ok (p v) c) ≠ .raise .bufferUnderrun := by
  cases o <;> nofun

/-- In READY a frame command whose body raises an error that aborts fails. -/
theorem frameCommand_of_raise {body : ReadOut Payload} {e : Err} (hr : s.rstate = .ready) (hb : body = .raise e)
    (he : e.aborts = true) : frameCommand s body = .next (s.failed e) := by
  rw [hb, frameCommand_ready hr, ← raise_eq_failed s he]

theorem lastResponse_failed (s : State) (e : Err) : (s.failed e).lastResponse = some ⟨e, .empty⟩ :=
  List.getLast?_concat

/-- For an enabled sensor, the body of an UNPACK underruns where the frame is short, and only there. -/
theorem unpackBody_underrun (h : s.FrameHolds) (cat : Category) {kind : SensorKind} (hk : kind ≠ .none) :
    ∃ r, frameBody s (categoryUnpack kind cat) =
        (if s.len.toNat < s.cur.toNat + cat.size then .raise .bufferUnderrun else r) ∧
      r ≠ .raise .bufferUnderrun := by
  cases cat with
  | air => exact ⟨_, airBody_eq h, nofun⟩
  | airQuality => exact ⟨_, airQualityBody_eq h hardware (tierUnder_none _), lookup_ne_underrun _ _ _⟩
  | light => exact ⟨_, lightBody_eq h, nofun⟩
  | sound => exact ⟨_, soundBody_eq h hardware, lookup_ne_underrun _ _ _⟩
  | particle => exact ⟨_, particleBody_eq h hardware hk, lookup_ne_underrun _ _ _⟩

end Sys2Proof.Machine
end

section
/-! Reads one after another from a cursor, as READ commands run them and as the bodies of the UNPACK commands do
(42_unpack R103). -/

namespace Sys2Proof.Machine

/-- From cursor c, with the frame of s, the bodies of these commands succeed one after another, give these payloads
and end at the last cursor. -/
inductive ReadsFrom (s : State) : BitVec 8 → List Instr → List Payload → BitVec 8 → Prop where
  | nil (c : BitVec 8) : ReadsFrom s c [] [] c
  | cons {c c' d : BitVec 8} {i : Instr} {p : Payload} {is : List Instr} {ps : List Payload}
      (first : frameBody (s.setCur c) i = .ok p c') (rest : ReadsFrom s c' is ps d) :
      ReadsFrom s c (i :: is) (p :: ps) d

/-- The state with the cursor moved and these responses given. -/
def State.readTo (s : State) (c : BitVec 8) (rs : List Response) : State :=
  { s with cur := c, outbox := s.outbox ++ rs }

theorem readTo_self (s : State) : s.readTo s.cur [] = s := by
  rw [State.readTo, List.append_nil]

/-- The host's lists do not reach a body. -/
theorem frameBody_readTo_offers (s : State) (c : BitVec 8) (rs : List Response) (is : List Instr) (i : Instr) :
    frameBody ((s.readTo c rs).offers is) i = frameBody (s.setCur c) i := by
  cases i <;> rfl

/-- Only frame commands have a body that succeeds. -/
theorem frameWidth_of_body_ok {s : State} {i : Instr} {p : Payload} {c : BitVec 8} (hb : frameBody s i = .ok p c) :
    ∃ w, i.frameWidth = some w := by
  cases i with
  | load _ _ => cases hb
  | decode _ _ => cases hb
  | encode _ _ _ => cases hb
  | query => cases hb
  | _ => exact ⟨_, rfl⟩

/-- In READY, commands whose bodies succeed one after another answer their payloads and end at the last cursor. -/
theorem run_readsFrom {s : State} (hr : s.rstate = .ready) {c d : BitVec 8} {is : List Instr} {ps : List Payload}
    (reads : ReadsFrom s c is ps d) (rs : List Response) :
    Host.Core.run core is.length ((s.readTo c rs).offers is) =
      .next (s.readTo d (rs ++ ps.map fun p => ⟨.ok, p⟩)) := by
  induction reads generalizing rs with
  | nil c => rw [List.map_nil, List.append_nil]; rfl
  | @cons c c' d i p is ps first _ ih =>
    obtain ⟨w, hw⟩ := frameWidth_of_body_ok first
    have answer : exec i ((s.readTo c rs).offers is) = .next ((s.readTo c' (rs ++ [⟨.ok, p⟩])).offers is) := by
      rw [exec_frameCommand hw, frameBody_readTo_offers, first,
        frameCommand_ready (s := (s.readTo c rs).offers is) hr, State.readTo, State.readTo, ← List.append_assoc]
      rfl
    rw [List.length_cons, run_of_step ((step_offers (wf_of_frameWidth hw) is _).trans answer), ih,
      List.append_assoc]
    rfl

/-- Reads in sequence succeed where each does. -/
theorem bind_eq_ok {α β : Type} {r : ReadOut α} {f : α → BitVec 8 → ReadOut β} {y : β} {d : BitVec 8}
    (h : r.bind f = .ok y d) : ∃ x c, r = .ok x c ∧ f x c = .ok y d := by
  cases r with
  | ok x c => exact ⟨x, c, rfl, h⟩
  | raise e => cases h
  | absent a => cases h

section Reads
variable {s : State} {c c' : BitVec 8}

theorem readSingleBody_of_rd {fmt : Fmt} {v : Value} (h : rd s fmt c = .ok v c') :
    frameBody (s.setCur c) (.readSingle fmt) = .ok (.value v) c' :=
  congrArg (fun r => r.bind fun v c => .ok (Payload.value v) c) h

theorem readStripedBody_of_rds {fmt : Fmt} {n : BitVec 8} {vs : List Value} (h : rds s fmt n.toNat c = .ok vs c') :
    frameBody (s.setCur c) (.readStriped fmt n) = .ok (.values vs) c' :=
  congrArg (fun r => r.bind fun vs c => .ok (Payload.values vs) c) h

theorem readEnumBody_of_rde {t : TableId} {v : Variant} (h : rde hardware s t c = .ok v c') :
    frameBody (s.setCur c) (.readEnum t) = .ok (.variant t v) c' :=
  congrArg (fun r => r.bind fun v c => .ok (Payload.variant t v) c) h

end Reads

/-- The body of an UNPACK that succeeds is made of the bodies of the category's READ commands, and its record of what
they give. -/
theorem readsFrom_of_unpackBody {s : State} {cat : Category} {kind : SensorKind} {items : List (FieldName × Item)}
    {d : BitVec 8} (h : frameBody s (categoryUnpack kind cat) = .ok (.record items) d) :
    ReadsFrom s s.cur (categoryReads cat) (items.filterMap fun e => e.2.readPayload) d := by
  cases cat with
  | air =>
    obtain ⟨temp, c, ht, h⟩ := bind_eq_ok h
    obtain ⟨press, c, hp, h⟩ := bind_eq_ok h
    obtain ⟨hum, c, hh, h⟩ := bind_eq_ok h
    obtain ⟨gas, c, hg, h⟩ := bind_eq_ok h
    cases h
    exact .cons (readSingleBody_of_rd ht) (.cons (readSingleBody_of_rd hp) (.cons (readSingleBody_of_rd hh)
      (.cons (readSingleBody_of_rd hg) (.nil _))))
  | airQuality =>
    obtain ⟨aqi, c, ha, h⟩ := bind_eq_ok h
    rw [show hardware.aqiOver = .none from rfl, tierUnder_none] at h
    obtain ⟨co2e, c, hc, h⟩ := bind_eq_ok h
    obtain ⟨bvoc, c, hb, h⟩ := bind_eq_ok h
    obtain ⟨acc, c, hv, h⟩ := bind_eq_ok h
    cases h
    exact .cons (readSingleBody_of_rd ha) (.cons (readSingleBody_of_rd hc) (.cons (readSingleBody_of_rd hb)
      (.cons (readEnumBody_of_rde hv) (.nil _))))
  | light =>
    obtain ⟨light, c, hl, h⟩ := bind_eq_ok h
    obtain ⟨white, c, hw, h⟩ := bind_eq_ok h
    cases h
    exact .cons (readSingleBody_of_rd hl) (.cons (readSingleBody_of_rd hw) (.nil _))
  | sound =>
    obtain ⟨spl, c, hs, h⟩ := bind_eq_ok h
    obtain ⟨bands, c, hb, h⟩ := bind_eq_ok h
    obtain ⟨peak, c, hp, h⟩ := bind_eq_ok h
    obtain ⟨stab, c, hv, h⟩ := bind_eq_ok h
    cases h
    exact .cons (readSingleBody_of_rd hs) (.cons (readStripedBody_of_rds hb) (.cons (readSingleBody_of_rd hp)
      (.cons (readEnumBody_of_rde hv) (.nil _))))
  | particle =>
    simp only [categoryUnpack, frameBody, particleBody] at h
    split at h
    · cases h
    · obtain ⟨duty, c, hd, h⟩ := bind_eq_ok h
      obtain ⟨conc, c, hc, h⟩ := bind_eq_ok h
      obtain ⟨valid, c, hv, h⟩ := bind_eq_ok h
      cases h
      exact .cons (readSingleBody_of_rd hd) (.cons (readSingleBody_of_rd hc) (.cons (readEnumBody_of_rde hv)
        (.nil _)))

end Sys2Proof.Machine
end

section
/-! The statements about the unpacker (42_unpack). -/

namespace Sys2Proof.Machine

/-- VALIDITY_TABLE has no variant for the bytes from 2 on (42_unpack R93). -/
theorem validityTable_of_two_le {b : Byte} (h : 2 ≤ b.toNat) : validityTable b = none := by
  unfold validityTable
  split
  · omega
  · omega
  · rfl

/-- Settles O28: with a byte left READ_ENUM looks it up, and VALIDITY_TABLE has two entries. -/
theorem validityLookup : Obligations.ValidityLookup := by
  intro s inv hr fits
  have body := bind_rde_cur inv.frame hardware .validity fun v c => .ok (Payload.variant .validity v) c
  rw [if_neg (by omega), show tableFor hardware .validity = validityTable from rfl] at body
  refine ⟨fun hb => exec_of_body_ok rfl hr ?_, fun hb => exec_of_body_ok rfl hr ?_,
    fun hb => exec_of_body_raise rfl hr ?_ rfl⟩
  · exact body.trans (by rw [hb]; rfl)
  · exact body.trans (by rw [hb]; rfl)
  · exact body.trans (by rw [validityTable_of_two_le hb])

/-- Settles O49: the success is that of the body, whose reads the READ commands run one by one. -/
theorem unpackIsItsReads : Obligations.UnpackIsItsReads := by
  intro cat kind s t items inv hx hlast
  have hw := frameWidth_categoryUnpack kind cat
  rcases frame_exec_cases hw hx with ⟨-, rfl⟩ | ⟨hr, p, hb, rfl⟩ | ⟨-, e, -, -, rfl⟩
  · rw [lastResponse_answered] at hlast
    cases hlast
  · rw [lastResponse_afterRead] at hlast
    cases hlast
    have run := run_readsFrom hr (readsFrom_of_unpackBody hb) []
    rw [readTo_self, List.nil_append] at run
    exact ⟨cur_add (read_fits inv.frame hw hb), _, run, List.drop_left, rfl, rfl, rfl, rfl, rfl⟩
  · rw [lastResponse_failed] at hlast
    cases hlast

/-- Settles O50: the body underruns exactly where the frame is short, and a failed response is the body's error. -/
theorem unpackUnderrunsExactly : Obligations.UnpackUnderrunsExactly := by
  refine ⟨by decide, fun cat kind s t r inv hr hk hx hlast => ?_⟩
  have hw := frameWidth_categoryUnpack kind cat
  obtain ⟨whole, hb, hwhole⟩ := unpackBody_underrun inv.frame cat hk
  by_cases short : s.len.toNat < s.cur.toNat + cat.size
  · rw [exec_of_body_raise hw hr (hb.trans (if_pos short)) rfl] at hx
    cases hx
    rw [lastResponse_failed] at hlast
    cases hlast
    exact ⟨iff_of_true rfl short, nofun⟩
  · rw [if_neg short] at hb
    refine ⟨iff_of_false ?_ short, fun _ => Nat.not_lt.1 short⟩
    rcases frame_exec_cases hw hx with ⟨fault, -⟩ | ⟨-, p, -, rfl⟩ | ⟨-, e, he, -, rfl⟩
    · cases hr.symm.trans fault
    · rw [lastResponse_afterRead] at hlast
      cases hlast
      nofun
    · rw [lastResponse_failed] at hlast
      cases hlast
      rintro rfl
      exact hwhole (hb.symm.trans he)

/-- Settles O45: the thresholds are compared as integers, scaled by 10^fd. -/
theorem aqiTierThresholds : Obligations.AqiTierThresholds :=
  ⟨by decide, fun _ h => tierOf_eq h⟩

/-- Settles O41: the body is four reads in sequence. -/
theorem unpackAirCommand : Obligations.UnpackAirCommand :=
  ⟨by decide, fun _ inv => exec_of_body_underrun rfl (airBody_eq inv.frame)⟩

/-- Settles O46: the body is two reads in sequence. -/
theorem unpackLightCommand : Obligations.UnpackLightCommand :=
  ⟨by decide, fun _ inv => exec_of_body_underrun rfl (lightBody_eq inv.frame)⟩

/-- Settles O42: under NONE there is a tier, so the body fails by an underrun or by its lookup. -/
theorem unpackAirQualityCommand : Obligations.UnpackAirQualityCommand :=
  ⟨by decide, fun _ inv => exec_of_body_lookup (i := .unpackAirQuality) rfl _
    (airQualityBody_eq inv.frame hardware (tierUnder_none _))⟩

/-- Settles O43: above 499 the tier is the policy's; with one the body completes, and without one it ends there. -/
theorem airQualityEachPolicy : Obligations.AirQualityEachPolicy := by
  refine ⟨by decide, fun cfg s inv hr field high => ?_⟩
  have noTier : tierOf (s.fieldAt .u2_1 0) = none := tierOf_of_over rfl high
  refine ⟨fun policy => ?_, fun policy fits acc hacc => ?_⟩
  · exact frameCommand_of_raise hr (airQualityBody_of_error inv.frame policy field noTier) rfl
  · obtain ⟨-, completes, -, -⟩ := completesUnderEachTable cfg s acc inv hr
    exact completes _ fits hacc (tierUnder_of_over noTier policy)

/-- Settles O47: the body is four reads in sequence, the last of them a lookup. -/
theorem unpackSoundCommand : Obligations.UnpackSoundCommand :=
  ⟨by decide, fun _ inv => exec_of_body_lookup (i := .unpackSound) rfl _ (soundBody_eq inv.frame hardware)⟩

/-- Settles O48: kind NONE fails before any read; for the others the body is three reads, the last of them a lookup. -/
theorem unpackParticleCommand : Obligations.UnpackParticleCommand := by
  refine ⟨by decide, by decide, by decide, fun kind s inv => ?_⟩
  by_cases hk : kind = .none
  · subst hk
    cases hr : s.rstate with
    | fault => exact exec_of_fault rfl hr
    | ready => exact exec_of_body_raise rfl hr rfl rfl
  · rw [if_neg hk]
    exact exec_of_body_lookup (i := .unpackParticle kind) rfl _ (particleBody_eq inv.frame hardware hk)

end Sys2Proof.Machine
end

section
/-! The errors a command can report (60_exceptions R106): those its reads raise, then those of every command that is
well formed, with what each changes (R108). -/

namespace Sys2Proof.Machine

/-- Every error that a read raises is one of these. -/
def RaisesOnly {α : Type} (r : ReadOut α) (es : List Err) : Prop := ∀ e, r = .raise e → e ∈ es

section Reads
variable {α : Type} {es : List Err}

theorem raisesOnly_ok (x : α) (c : BitVec 8) (es : List Err) : RaisesOnly (.ok x c) es := nofun

theorem raisesOnly_raise {e : Err} (he : e ∈ es) : RaisesOnly (.raise e : ReadOut α) es := by
  rintro _ ⟨⟩
  exact he

theorem raisesOnly_absent (a : Nat) (es : List Err) : RaisesOnly (.absent a : ReadOut α) es := nofun

/-- Reads in sequence raise what each of them raises. -/
theorem raisesOnly_bind {β : Type} {r : ReadOut α} {f : α → BitVec 8 → ReadOut β} (hr : RaisesOnly r es)
    (hf : ∀ x c, RaisesOnly (f x c) es) : RaisesOnly (r.bind f) es := by
  cases r with
  | ok x c => exact hf x c
  | raise e => exact raisesOnly_raise (hr e rfl)
  | absent a => exact raisesOnly_absent a es

/-- What is made of a read's result raises nothing. -/
theorem raisesOnly_map {β : Type} {r : ReadOut α} (hr : RaisesOnly r es) (f : α → β) :
    RaisesOnly (r.bind fun x c => .ok (f x) c) es :=
  raisesOnly_bind hr fun _ _ => raisesOnly_ok _ _ es

variable (underrun : .bufferUnderrun ∈ es) (s : State)
include underrun

theorem raisesOnly_takeBytes (w : Nat) (c : BitVec 8) : RaisesOnly (takeBytes s w c) es := by
  unfold takeBytes
  split
  · exact raisesOnly_raise underrun
  · cases s.mem.read c.toNat w with
    | ok bs => exact raisesOnly_ok _ _ es
    | error a => exact raisesOnly_absent a es

theorem raisesOnly_rd (fmt : Fmt) (c : BitVec 8) : RaisesOnly (rd s fmt c) es :=
  raisesOnly_map (raisesOnly_takeBytes underrun s _ c) _

theorem raisesOnly_rds (fmt : Fmt) (n : Nat) (c : BitVec 8) : RaisesOnly (rds s fmt n c) es :=
  raisesOnly_map (raisesOnly_takeBytes underrun s _ c) _

theorem raisesOnly_rde (lookup : .unknownVariant ∈ es) (cfg : Config) (t : TableId) (c : BitVec 8) :
    RaisesOnly (rde cfg s t c) es :=
  raisesOnly_bind (raisesOnly_takeBytes underrun s 1 c) fun bs c' => by
    cases tableFor cfg t (bs.headD 0) with
    | none => exact raisesOnly_raise lookup
    | some v => exact raisesOnly_ok v c' es

/-- A read of one field, then the rest of the body. -/
theorem raisesOnly_bind_rd (fmt : Fmt) (c : BitVec 8) {f : Value → BitVec 8 → ReadOut α}
    (hf : ∀ x c, RaisesOnly (f x c) es) : RaisesOnly ((rd s fmt c).bind f) es :=
  raisesOnly_bind (raisesOnly_rd underrun s fmt c) hf

end Reads

/-- Every frame command can be aborted in FAULT and can underrun. -/
theorem frame_errors_mem {i : Instr} {w : Nat} (hw : i.frameWidth = some w) :
    .frameAborted ∈ errorsOf i ∧ .bufferUnderrun ∈ errorsOf i := by
  cases i with
  | load _ _ => cases hw
  | decode _ _ => cases hw
  | encode _ _ _ => cases hw
  | query => cases hw
  | _ => simp [errorsOf]

/-- The body of a frame command raises the errors of 60_exceptions R106 alone. Under NONE an AQI always has a tier. -/
theorem raisesOnly_frameBody {i : Instr} {w : Nat} (hw : i.frameWidth = some w) (s : State) :
    RaisesOnly (frameBody s i) (errorsOf i) := by
  obtain ⟨-, underrun⟩ := frame_errors_mem hw
  cases i with
  | load _ _ => cases hw
  | decode _ _ => cases hw
  | encode _ _ _ => cases hw
  | query => cases hw
  | readSingle fmt => exact raisesOnly_map (raisesOnly_rd underrun s fmt _) _
  | readEnum t => exact raisesOnly_map (raisesOnly_rde underrun s (by simp [errorsOf]) hardware t _) _
  | readStriped fmt n => exact raisesOnly_map (raisesOnly_rds underrun s fmt n.toNat _) _
  | unpackAir =>
    exact raisesOnly_bind_rd underrun s _ _ fun _ _ => raisesOnly_bind_rd underrun s _ _ fun _ _ =>
      raisesOnly_bind_rd underrun s _ _ fun _ _ => raisesOnly_map (raisesOnly_rd underrun s _ _) _
  | unpackAirQuality =>
    refine raisesOnly_bind_rd underrun s _ _ fun aqi _ => ?_
    rw [show hardware.aqiOver = .none from rfl, tierUnder_none]
    exact raisesOnly_bind_rd underrun s _ _ fun _ _ => raisesOnly_bind_rd underrun s _ _ fun _ _ =>
      raisesOnly_map (raisesOnly_rde underrun s (by simp [errorsOf]) hardware _ _) _
  | unpackLight =>
    exact raisesOnly_bind_rd underrun s _ _ fun _ _ => raisesOnly_map (raisesOnly_rd underrun s _ _) _
  | unpackSound =>
    exact raisesOnly_bind_rd underrun s _ _ fun _ _ =>
      raisesOnly_bind (raisesOnly_rds underrun s _ _ _) fun _ _ => raisesOnly_bind_rd underrun s _ _ fun _ _ =>
        raisesOnly_map (raisesOnly_rde underrun s (by simp [errorsOf]) hardware _ _) _
  | unpackParticle kind =>
    simp only [frameBody, particleBody]
    split
    · exact raisesOnly_raise (by simp [errorsOf])
    · exact raisesOnly_bind_rd underrun s _ _ fun _ _ => raisesOnly_bind_rd underrun s _ _ fun _ _ =>
        raisesOnly_map (raisesOnly_rde underrun s (by simp [errorsOf]) hardware _ _) _

/-- The errors that put the reader in FAULT (60_exceptions R108). -/
theorem aborts_iff_mem (e : Err) :
    e.aborts = true ↔ e ∈ [Err.bufferUnderrun, .unknownVariant, .noParticleSensor, .aqiTierUndefined] := by
  cases e <;> decide

/-- A well-formed command that is not a frame command succeeds, or answers an error of its own and changes nothing. -/
theorem exec_wf_of_frameWidth_none {i : Instr} (hw : i.frameWidth = none) (hi : i.wf = true) (s : State) :
    (∃ t p, exec i s = .next t ∧ t.lastResponse = some ⟨.ok, p⟩) ∨
    ∃ e ∈ errorsOf i, e.aborts = false ∧ exec i s = .next (s.answered e .empty) := by
  cases i with
  | load len bytes => exact .inl ⟨_, .empty, if_pos (eq_of_beq hi), lastResponse_answer _ _ _⟩
  | decode fmt bytes => exact .inl ⟨_, _, exec_decode (eq_of_beq hi) s, lastResponse_answered _ _ _⟩
  | encode fmt num den =>
    have den_ne : den ≠ 0 := bne_iff_ne.1 hi
    by_cases out : OutOfRange fmt num den
    · exact .inr ⟨.encodingRange, List.mem_cons_self, rfl, exec_encode_outOfRange fmt num s den_ne out⟩
    · exact .inl ⟨_, _, exec_encode_inRange fmt num s den_ne out, lastResponse_answered _ _ _⟩
  | query => exact .inl ⟨_, _, rfl, lastResponse_answer _ _ _⟩
  | _ => cases hw

/-- A well-formed command that answers a next state succeeds, answers an error of its own and changes nothing, or is
a frame command that fails in READY with an error of its own. -/
theorem exec_wf_cases {i : Instr} {s t : State} (hi : i.wf = true) (hx : exec i s = .next t) :
    (∃ p, t.lastResponse = some ⟨.ok, p⟩) ∨
    (∃ e ∈ errorsOf i, e.aborts = false ∧ t = s.answered e .empty) ∨
    ∃ e ∈ errorsOf i, e.aborts = true ∧ i.frameWidth.isSome = true ∧ s.rstate = .ready ∧ t = s.failed e := by
  cases hw : i.frameWidth with
  | none =>
    rcases exec_wf_of_frameWidth_none hw hi s with ⟨u, p, hu, hp⟩ | ⟨e, he, keeps, hu⟩ <;> cases hu.symm.trans hx
    · exact .inl ⟨p, hp⟩
    · exact .inr (.inl ⟨e, he, keeps, rfl⟩)
  | some w =>
    rcases frame_exec_cases hw hx with ⟨-, rfl⟩ | ⟨-, p, -, rfl⟩ | ⟨hr, e, hb, aborts, rfl⟩
    · exact .inr (.inl ⟨.frameAborted, (frame_errors_mem hw).1, rfl, rfl⟩)
    · exact .inl ⟨p, lastResponse_afterRead s w p⟩
    · exact .inr (.inr ⟨e, raisesOnly_frameBody hw s e hb, aborts, rfl, hr, rfl⟩)

/-- The same for any pair: one that encodes no command answers ILLEGAL_COMMAND and changes nothing. -/
theorem runOffer_cases {c : Command} {s t : State} (hx : runOffer exec c s = .next t) :
    (∃ p, t.lastResponse = some ⟨.ok, p⟩) ∨
    (∃ e, e.aborts = false ∧ t = s.answered e .empty) ∨
    ∃ e i, e.aborts = true ∧ decode c = .instr i ∧ i.frameWidth.isSome = true ∧ s.rstate = .ready ∧
      t = s.failed e := by
  cases hd : decode c with
  | illegal r =>
    simp only [runOffer, hd] at hx
    cases hx
    exact .inr (.inl ⟨.illegalCommand, rfl, rfl⟩)
  | instr i =>
    rw [runOffer_of_decode hd] at hx
    obtain ⟨hi, -⟩ := encode_decode hd
    rcases exec_wf_cases hi hx with ok | ⟨e, -, keeps, ht⟩ | ⟨e, -, aborts, hw, hr, ht⟩
    · exact .inl ok
    · exact .inr (.inl ⟨e, keeps, ht⟩)
    · exact .inr (.inr ⟨e, i, aborts, rfl, hw, hr, ht⟩)

end Sys2Proof.Machine
end

section
/-! The statements about errors and FAULT (60_exceptions). -/

namespace Sys2Proof.Machine

/-- Settles O4: with no event a step is the idle one. -/
theorem idleHoldsState : Obligations.IdleHoldsState := by
  intro s idle
  simp only [step, runEvent, idle]

/-- Settles O9: reset and LOAD aside, a step keeps RSTATE or enters FAULT. -/
theorem onlyLoadOrResetLeavesFault : Obligations.OnlyLoadOrResetLeavesFault := by
  intro s t hs fault ready
  rcases step_cases s with ⟨-, h⟩ | ⟨rest, hin, -⟩ | ⟨c, rest, i, hin, hd, h⟩ | ⟨c, rest, r, -, -, h⟩
  · cases h.symm.trans hs
    cases fault.symm.trans ready
  · exact .inl ⟨rest, hin⟩
  · rcases exec_cases (h.symm.trans hs) with ⟨len, bytes, rfl, -, -⟩ | ⟨e, p, rfl⟩ | ⟨w, p, -, -, rfl⟩ | ⟨e, -, rfl⟩
    · exact .inr ⟨c, rest, len, bytes, hin, hd⟩
    · cases fault.symm.trans ready
    · cases fault.symm.trans ready
    · cases ready
  · cases h.symm.trans hs
    cases fault.symm.trans ready

/-- Settles O39: an error that aborts is a frame command's in READY, and any other only answers. -/
theorem errorEffect : Obligations.ErrorEffect := by
  intro s t c rest r hin hs hlast hr
  rw [step_of_offer hin] at hs
  rcases runOffer_cases hs with ⟨p, hp⟩ | ⟨e, keeps, rfl⟩ | ⟨e, i, aborts, hd, hw, ready, rfl⟩
  · cases hp.symm.trans hlast
    exact absurd rfl hr
  · cases (lastResponse_answered _ _ _).symm.trans hlast
    refine ⟨rfl, rfl, rfl, ?_⟩
    rw [if_neg (mt (aborts_iff_mem e).2 (Bool.eq_false_iff.1 keeps))]
    exact ⟨rfl, rfl, rfl, rfl, rfl⟩
  · cases (lastResponse_failed _ _).symm.trans hlast
    refine ⟨rfl, rfl, rfl, ?_⟩
    rw [if_pos ((aborts_iff_mem e).1 aborts)]
    exact ⟨⟨i, hd, hw⟩, ready, rfl, rfl, rfl, rfl, rfl⟩

/-- Settles O40: the errors a well-formed command answers are those its body raises, FRAME_ABORTED in FAULT, and
ENCODE's own. -/
theorem errorsOfEachCommand : Obligations.ErrorsOfEachCommand := by
  intro i s t r hi hx hlast
  rcases exec_wf_cases hi hx with ⟨p, hp⟩ | ⟨e, he, -, rfl⟩ | ⟨e, he, -, -, -, rfl⟩
  · cases hp.symm.trans hlast
    exact List.mem_cons_self
  · cases (lastResponse_answered _ _ _).symm.trans hlast
    exact List.mem_cons_of_mem _ he
  · cases (lastResponse_failed _ _).symm.trans hlast
    exact List.mem_cons_of_mem _ he

end Sys2Proof.Machine
end

section
/-! What one step does to the host's lists: RST takes one event, and an offered pair takes one and adds one response
(70_reset_and_hazards R123, R133). -/

namespace Sys2Proof.Machine

/-- RST is taken from the inbox and resets the block. -/
theorem step_of_rst {s : State} {rest : List HostEvent} (h : s.inbox = .rst :: rest) :
    step s = .next (s.withInbox rest).applyReset := by
  simp only [step, runEvent, h]

/-- A command takes no event. -/
theorem exec_inbox {i : Instr} {s t : State} (hx : exec i s = .next t) : t.inbox = s.inbox := by
  rcases exec_cases hx with ⟨_, _, -, -, rfl⟩ | ⟨_, _, rfl⟩ | ⟨_, _, -, -, rfl⟩ | ⟨_, -, rfl⟩ <;> rfl

/-- An offered pair, whether it decodes or not, takes no further event and gives one response. -/
theorem runOffer_inbox_outbox {c : Command} {s t : State} (hx : runOffer exec c s = .next t) :
    t.inbox = s.inbox ∧ ∃ r, t.outbox = s.outbox ++ [r] := by
  cases hd : decode c with
  | instr i =>
    rw [runOffer_of_decode hd] at hx
    exact ⟨exec_inbox hx, exec_outbox hx⟩
  | illegal why =>
    simp only [runOffer, hd] at hx
    cases hx
    exact ⟨raise_inbox s _, _, raise_outbox s _⟩

/-- Settles O8: under the invariants the step answers a state, and that state is the pair's own run, the offer taken. -/
theorem everyOfferIsAnswered : Obligations.EveryOfferIsAnswered := by
  intro s c rest inv hin
  obtain ⟨t, ht, -⟩ := step_inv inv
  obtain ⟨taken, r, answered⟩ := runOffer_inbox_outbox ((step_of_offer hin).symm.trans ht)
  exact ⟨t, r, ht, taken, answered⟩

/-- Settles O3: the step is the reset, which sets every component but the two lists of the host. -/
theorem rstRestoresReset : Obligations.RstRestoresReset := fun _ _ hin => step_of_rst hin

end Sys2Proof.Machine
end
